-- ==== Sys2Proof/Word.lean ====
section
/-! DEFINITION. The words that pass between software and the part (00_scope.md section 1.6.5, 11_formats.md):
bit 0 is the least significant bit, and a record of n bytes is one number whose byte k is bits 8k+7 … 8k
(little-endian). Times, durations, counts and indexes are natural numbers. -/

namespace Sys2Proof

/-- A 64-bit host address, as the part issues it on the link. -/
abbrev Addr := BitVec 64

/-- A 32-bit word: a tag, a notification value. -/
abbrev Word32 := BitVec 32

/-- A 64-bit word: a register, a data or mask field, a capture value. -/
abbrev Word64 := BitVec 64

/-- A 128-byte submission entry (11_formats.md section 11.2). -/
abbrev Entry := BitVec 1024

/-- A 32-byte record: an operation record or a completion entry (sections 11.2.3 and 11.3). -/
abbrev Record := BitVec 256

/-- The bytes of an operation list of eight records, record 1 lowest. -/
abbrev ListBytes := BitVec 2048

/-- The 64-byte identity record (section 11.4). -/
abbrev IdentityRecord := BitVec 512

/-- The number held in the `len` bytes of a record that begin at byte `off`. -/
abbrev bytesOf {n : Nat} (x : BitVec n) (off len : Nat) : Nat :=
  (x.extractLsb' (8 * off) (8 * len)).toNat

end Sys2Proof
end

