-- ==== Sys2Proof/Config.lean ====
section
/-! DEFINITION. The capacities and fixed numbers of the part, each with the rule of spec/ that states it. -/

namespace Sys2Proof.Config

/-- The largest valid timebase value, 2^63 − 1 ns (R1). -/
def maxTime : Nat := 2 ^ 63 - 1

/-- One reference period in ns (R2, R4, R212). -/
def periodNs : Nat := 8

/-- The units of the fraction in one ns (R2). -/
def unitsPerNs : Nat := 10 ^ 9

/-- The bound on the magnitude of a slew rate in ppb (R10). -/
def maxRate : Int := 500000

/-- The read timeout, 100 µs of elapsed time (R51, R101, R162). -/
def readTimeoutNs : Nat := 100000

/-- The spacing of the reads of a POLL, 1 µs of elapsed time (R35, R105). -/
def pollSpacingNs : Nat := 1000

/-- The largest POLL limit and WAIT length in ns (R35, R36). -/
def maxWaitNs : Nat := 1000000000

/-- The largest coalescing hold, 65,535 µs, in ns (R175). -/
def maxHoldNs : Nat := 65535000

/-- Action slots of AST (section 1.2, R41, R207). -/
def slotCount : Nat := 1024

/-- The largest quota of a tenant (R46). -/
def maxQuota : Nat := 1024

/-- The quota of each tenant after reset (R46, R64). -/
def resetQuota : Nat := 64

/-- Entries of the outbox pool (R182). -/
def poolSize : Nat := 64

/-- The value at which the lost count, the suppressed count and the missed accumulator stay (R81, R119, R183). -/
def countLimit : Nat := 65535

/-- The smallest and the largest period of a recurring action in ns (R24). -/
def minPeriod : Nat := 1000
def maxPeriod : Nat := 2 ^ 48

/-- The largest listen length in ns (R30). -/
def maxListen : Nat := 2 ^ 40

/-- The largest edge spacing in ns (R117). -/
def maxSpacing : Nat := 1000000

/-- The staging lead in µs and the fire budget in ms after reset (R95). -/
def resetLeadUs : Nat := 20
def resetBudgetMs : Nat := 10

/-- Vendor code, part code and revision of IDENT (11_formats.md section 11.1). -/
def vendorCode : BitVec 16 := 0x7A31
def partCode : BitVec 16 := 0x0F40
def revision : BitVec 16 := 0x0001

end Sys2Proof.Config
end

