-- ==== Sys2Proof/Syntax.lean ====
section
/-! DEFINITION. The commands of the FT40: one constructor per row of spec/opcode_table.json, in the table's order,
with the operands that the rule of its row gives it. A request or an administrative command takes its fields from
the 128-byte entry that its request context holds, so the context is its operand (R163, R166). -/

namespace Sys2Proof

/-- The kind of an edge on an input line (R118). -/
inductive EdgeKind
  | rise
  | fall
  deriving DecidableEq, Repr

/-- The four kinds of reset (R206). -/
inductive ResetKind
  | powerOn
  | functionReset
  | hotReset
  | linkDown
  deriving DecidableEq, Repr

/-- The shape of an access to the register window: 32 bits, 64 bits, or any other length or with only some of its
bytes enabled (R197). -/
inductive Access
  | dword
  | qword
  | other
  deriving DecidableEq, Repr

/-- The requester of a read: the entry read or the list read of a request context, the operation read of an engine. -/
inductive ReadSource
  | entry (ctx : Fin 8)
  | list (ctx : Fin 8)
  | operation (engine : Fin 4)
  deriving DecidableEq, Repr

/-- How a list fetch ended: with an error completion or poisoned data, or with every byte returned (R51). Bytes above
the list's own length are not read. -/
inductive ListResult
  | failed
  | data (bytes : ListBytes)
  deriving DecidableEq, Repr

/-- The commands, one per row of spec/opcode_table.json. -/
inductive Instr
  | enable
  | teardown
  | teardownEnd
  | reset (kind : ResetKind)
  | busMasterEnableChange (on : Bool)
  | registerWrite (offset : BitVec 12) (access : Access) (data : Word64)
  | timeLowRead
  | post (data : Word64)
  | release (data : Word64)
  | requestGrant
  | entryTaken (ctx : Fin 8) (entry : Entry)
  | entryFetchFailed (ctx : Fin 8)
  | entryFetchTimeout (ctx : Fin 8)
  | staleReadData (source : ReadSource)
  | arm (ctx : Fin 8)
  | listFetchDone (ctx : Fin 8) (result : ListResult)
  | listFetchTimeout (ctx : Fin 8)
  | cancel (ctx : Fin 8)
  | cancelAll (ctx : Fin 8)
  | amend (ctx : Fin 8)
  | query (ctx : Fin 8)
  | setTenantLimits (ctx : Fin 8)
  | setTime (ctx : Fin 8)
  | stepTime (ctx : Fin 8)
  | slewTime (ctx : Fin 8)
  | readTimeState (ctx : Fin 8)
  | slewExpired
  | timebaseCeiling (credits : Nat)
  | holdDispatch (ctx : Fin 8)
  | resumeDispatch (ctx : Fin 8)
  | setDispatch (ctx : Fin 8)
  | configureInputLine (ctx : Fin 8)
  | grantLine (ctx : Fin 8)
  | revokeLine (ctx : Fin 8)
  | setWindow (ctx : Fin 8)
  | clearWindow (ctx : Fin 8)
  | createSubmissionRing (ctx : Fin 8)
  | deleteSubmissionRing (ctx : Fin 8)
  | createCompletionRing (ctx : Fin 8)
  | tuneCompletionRing (ctx : Fin 8)
  | deleteCompletionRing (ctx : Fin 8)
  | identify (ctx : Fin 8)
  | identifyRecordIssued (ctx : Fin 8) (prefixBytes : Fin 64)
  | stage
  | instanceStart (engine : Fin 4)
  | budgetExpired (engine : Fin 4)
  | dspStepEvent
  | readDataReturned (engine : Fin 4) (data : Word64)
  | maskedWriteReadReturned (engine : Fin 4) (data : Word64)
  | pollReadReturned (engine : Fin 4) (data : Word64)
  | readFailed (engine : Fin 4)
  | readTimeout (engine : Fin 4)
  | writeAcceptedByLink (engine : Fin 4)
  | pollSpacingElapsed (engine : Fin 4)
  | pollLimitExpired (engine : Fin 4)
  | waitElapsed (engine : Fin 4)
  | lineRequest (engine : Fin 4)
  | inputEdge (line : Fin 4) (kind : EdgeKind)
  | gateOpen
  | gateClose
  | lnuStepEvent
  | cuWriteAcceptedByLink
  | holdTimerExpired (ring : Fin 16)
  | completionWriteFailed
  | timebaseAdvance (credits : Nat)
  deriving DecidableEq, Repr

end Sys2Proof
end

