-- ==== Sys2Proof/WellFormed.lean ====
section
/-! DEFINITION. Which commands are well formed. Contexts, engines, lines and rings are bounded by their types; what is
left to check is the register write, whose row is for a write "to a register with no row of its own, or a malformed
access" (spec/opcode_table.json, R197, R198). Every meaning is total: an ill-formed register write is still carried out
as HP carries out that access. -/

namespace Sys2Proof

/-- The access reaches CONTROL, POST or RELEASE with its low half, at a length and alignment that HP accepts: such a
write has a row of its own (ENABLE, TEARDOWN, POST or RELEASE). -/
def writeHasOwnRow (offset : BitVec 12) (access : Access) : Bool :=
  match access with
  | .other => false
  | _ => offset == 0x08 || offset == 0x28 || offset == 0x30

/-- A 32-bit write carries 32 bits of data. -/
def writeDataFits (access : Access) (data : Word64) : Bool :=
  match access with
  | .dword => data.toNat < 2 ^ 32
  | _ => true

/-- The well-formed commands. -/
def wellFormed : Instr → Bool
  | .registerWrite offset access data => !writeHasOwnRow offset access && writeDataFits access data
  | .enable => true
  | .teardown => true
  | .teardownEnd => true
  | .reset _ => true
  | .busMasterEnableChange _ => true
  | .timeLowRead => true
  | .post _ => true
  | .release _ => true
  | .requestGrant => true
  | .entryTaken _ _ => true
  | .entryFetchFailed _ => true
  | .entryFetchTimeout _ => true
  | .staleReadData _ => true
  | .arm _ => true
  | .listFetchDone _ _ => true
  | .listFetchTimeout _ => true
  | .cancel _ => true
  | .cancelAll _ => true
  | .amend _ => true
  | .query _ => true
  | .setTenantLimits _ => true
  | .setTime _ => true
  | .stepTime _ => true
  | .slewTime _ => true
  | .readTimeState _ => true
  | .slewExpired => true
  | .timebaseCeiling _ => true
  | .holdDispatch _ => true
  | .resumeDispatch _ => true
  | .setDispatch _ => true
  | .configureInputLine _ => true
  | .grantLine _ => true
  | .revokeLine _ => true
  | .setWindow _ => true
  | .clearWindow _ => true
  | .createSubmissionRing _ => true
  | .deleteSubmissionRing _ => true
  | .createCompletionRing _ => true
  | .tuneCompletionRing _ => true
  | .deleteCompletionRing _ => true
  | .identify _ => true
  | .identifyRecordIssued _ _ => true
  | .stage => true
  | .instanceStart _ => true
  | .budgetExpired _ => true
  | .dspStepEvent => true
  | .readDataReturned _ _ => true
  | .maskedWriteReadReturned _ _ => true
  | .pollReadReturned _ _ => true
  | .readFailed _ => true
  | .readTimeout _ => true
  | .writeAcceptedByLink _ => true
  | .pollSpacingElapsed _ => true
  | .pollLimitExpired _ => true
  | .waitElapsed _ => true
  | .lineRequest _ => true
  | .inputEdge _ _ => true
  | .gateOpen => true
  | .gateClose => true
  | .lnuStepEvent => true
  | .cuWriteAcceptedByLink => true
  | .holdTimerExpired _ => true
  | .completionWriteFailed => true
  | .timebaseAdvance _ => true

end Sys2Proof
end

