-- ==== Sys2Proof/Decode.lean ====
section
/-! DEFINITION. The part has no instruction decoder: its commands are register accesses, bus and link events and
internal steps. No row of spec/opcode_table.json gives bits, so no word spells a command. (The records that software
writes are read in Machine/Operands.lean.) -/

namespace Sys2Proof

/-- The command that a word spells by the table's bits: none, since no row of the table gives bits. -/
def decodeTableWord (_nbits _w : Nat) : Option Instr := none

end Sys2Proof
end

