-- ==== Sys2Proof/Machine/State.lean ====
section
/-! DEFINITION. The state of the FT40, block by block as section 1.2 of 00_scope.md lists them, and the machine right
after reset. Plain data throughout. Fields marked MODEL are the model's own (INVENTORY.md, notes/assumptions). -/

namespace Sys2Proof.Machine

open Sys2Proof

/-! ## Records that pass between blocks -/

/-- Statuses of request and fire completions, and notice codes (11_formats.md section 11.5.3). -/
inductive Status
  | ok | malformed | notPermitted | badField | badTime | timebaseUnset | noRing | alreadyExists | inUse | wrongState
  | duplicateTag | unknownTag | storeFull | quotaExceeded | listFetchError | tooLate | cancelDeferred
  | accessDenied | lineDenied | busError | pollExpired | overrun | lateSkipped | lateAborted | gateClosed
  | badPost | badRelease | sqFaulted | sqRetired | cqFaulted
  deriving DecidableEq, Repr

/-- Kinds of completion (section 11.3). -/
inductive CompletionKind
  | request | fire | edge | notice
  deriving DecidableEq, Repr

/-- A completion as its producer hands it to CU. CU adds the lap, the LOST flag and the lost count at the write
(R177, R183). Fields that a kind does not use are 0 (R211). -/
structure Completion where
  kind : CompletionKind
  status : Status
  source : Nat
  late : Bool := false
  final : Bool := false
  cancelled : Bool := false
  opIndex : Nat := 0
  aux16 : Nat := 0
  tag : Word32 := 0
  aux32 : Nat := 0
  time : Nat := 0
  value : Word64 := 0
  deriving DecidableEq, Repr

/-- The kind of a step event (R13). -/
inductive StepKind
  | set | step
  deriving DecidableEq, Repr

/-- A step event: its kind, the timebase value before the change and the value after it (R13). -/
structure StepEvent where
  kind : StepKind
  before : Nat
  after : Nat
  deriving DecidableEq, Repr

/-- An access width, 32 or 64 bits (R33). -/
inductive Width
  | w32 | w64
  deriving DecidableEq, Repr

/-- The level of a line (R36, R131). -/
inductive Level
  | low | high
  deriving DecidableEq, Repr

/-- The seven operations of an action, with the fields that their kind uses (R33 to R36). -/
inductive Op
  | write (width : Width) (addr : Addr) (data : Word64)
  | read (width : Width) (addr : Addr)
  | maskedWrite (width : Width) (addr : Addr) (data mask : Word64)
  | poll (width : Width) (addr : Addr) (data mask : Word64) (limit : Nat)
  | stamp (addr : Addr)
  | line (out : Fin 4) (level : Level)
  | wait (length : Nat)
  deriving DecidableEq, Repr

/-! ## Host port -/

/-- The condition of the part as a whole (chapter 10). -/
inductive Condition
  | off | ready | teardown | fatal
  deriving DecidableEq, Repr

/-- A write of CU: a completion entry or a notification value (R177, R188). -/
inductive CuWrite
  | entry (ring : Fin 16) (addr : Addr) (data : Record)
  | notify (ring : Fin 16) (addr : Addr) (value : Word32)
  deriving DecidableEq, Repr

/-- A posted write handed to HP that has not been placed on the link (R100, R177, R199). The data of an operation
write is formed when the link accepts it, so only its engine stands here. `refused` says that HP refused the write
when it was handed over, the bus master enable being clear (R199). DEDUCED (log entry 22): one queue for all
requesters. -/
inductive Posted
  | cu (write : CuWrite) (refused : Bool)
  | op (engine : Fin 4)
  | identity (ctx : Fin 8) (addr : Addr) (refused : Bool)
  deriving DecidableEq, Repr

/-- A transaction that the part has placed on the link. -/
inductive BusTxn
  | entryRead (ctx : Fin 8) (addr : Addr)
  | listRead (ctx : Fin 8) (addr : Addr) (bytes : Nat)
  | opRead (engine : Fin 4) (addr : Addr) (width : Width)
  | opWrite (engine : Fin 4) (addr : Addr) (width : Width) (data : Word64)
  | cuEntry (ring : Fin 16) (addr : Addr) (data : Record)
  | cuNotify (ring : Fin 16) (addr : Addr) (value : Word32)
  | identity (ctx : Fin 8) (addr : Addr) (bytes : Nat) (record : IdentityRecord)
  deriving DecidableEq, Repr

/-- HP (R197 to R207). READY and TEARDOWN of STATUS are views of `condition`; `fatalBit` is STATUS.FATAL, which stays
set through a teardown begun from FATAL (R200). -/
structure HostPort where
  condition : Condition
  enable : Bool
  fatalBit : Bool
  configError : Bool
  adminSq : Word64
  adminCq : Word64
  latched : Option (Word64 × Word64)
  timeLatch : Word32
  busMaster : Bool
  posted : List Posted
  /-- MODEL: how many more posted writes the link takes at once in this reference period. -/
  credits : Nat
  /-- MODEL: the transactions placed on the link, oldest first. -/
  bus : List BusTxn
  /-- MODEL: abandoned or timed-out reads whose data may still return (R101, R164, R173). -/
  stale : List ReadSource
  /-- MODEL: the data of the last register read that a command made (TIME low half). -/
  answer : Word64
  deriving DecidableEq, Repr

/-! ## Request engine -/

/-- The condition of a submission ring (R153). -/
inductive SqState
  | absent | active | faulted | deleting
  deriving DecidableEq, Repr

/-- A submission ring context (R152) with its arbiter credit (R161). -/
structure SqContext where
  state : SqState
  tenant : Nat
  base : Addr
  size : Nat
  head : Nat
  tail : Nat
  cq : Fin 16
  weight : Nat
  inFlight : Bool
  fetchHold : Bool
  credit : Nat
  deriving DecidableEq, Repr

/-- How far a request in EFFECT has come: not yet applied by its owning block, an ARM whose list is being fetched for
the PENDING slot `slot` (R51), or an IDENTIFY whose record has been handed to HP (R207). `sample` is the sample that the
request completion will carry; `onLink` is clear when HP answered the read at once with an error (R199). -/
inductive Effect
  | waiting
  | listFetch (slot : Nat) (sample : Nat) (timer : Nat) (onLink : Bool)
  | identity (sample : Nat)
  deriving DecidableEq, Repr

/-- A request context (R158): FREE, FETCH with the ring, the head read, the read timer and whether the read was placed
on the link, or EFFECT with the ring, the head read and the entry as read. -/
inductive ReqContext
  | free
  | fetch (ring : Fin 16) (head : Nat) (timer : Nat) (onLink : Bool)
  | effect (ring : Fin 16) (head : Nat) (entry : Entry) (progress : Effect)
  deriving DecidableEq, Repr

/-- RQE (R152 to R174). -/
structure RequestEngine where
  sqs : Vector SqContext 16
  ctxs : Vector ReqContext 8
  pointer : Nat
  deriving DecidableEq, Repr

/-! ## Action store -/

/-- The states of an occupied slot (section 3.1). A slot that the store does not list is FREE. -/
inductive SlotState
  | pending | armed | awaiting | listening | staged | firing
  deriving DecidableEq, Repr

inductive LatePolicy
  | fire | skip | abort
  deriving DecidableEq, Repr

inductive FaultPolicy
  | endAction | continueAction
  deriving DecidableEq, Repr

inductive CompletionMode
  | every | finalAndFaults
  deriving DecidableEq, Repr

inductive ClosePolicy
  | fail | fireAtClose
  deriving DecidableEq, Repr

/-- RISE, FALL or EITHER (R30, R116). -/
inductive EdgeSelect
  | rise | fall | either
  deriving DecidableEq, Repr

/-- The gate part of a gated action (section 2.5, R41). -/
structure Gate where
  line : Fin 4
  edge : EdgeSelect
  delay : Nat
  closePolicy : ClosePolicy
  openTime : Nat
  closeTime : Nat
  deriving DecidableEq, Repr

/-- An occupied action slot (section 3.1, R41). A PENDING slot holds no operations yet. -/
structure Slot where
  state : SlotState
  ring : Fin 16
  tenant : Nat
  tag : Word32
  period : Nat
  count : Nat
  tolerance : Nat
  latePolicy : LatePolicy
  faultPolicy : FaultPolicy
  completionMode : CompletionMode
  gate : Option Gate
  ops : List Op
  due : Nat
  ended : Nat
  missed : Nat
  capture : Word64
  endRequested : Bool
  used : Nat
  lateCarry : Bool
  seq : Word64
  deriving DecidableEq, Repr

/-- AST (R41 to R64). `slots` lists the occupied slots by slot number, numbers strictly rising; the tag indexes (R45)
and the tenants' holdings (R46) are views of it. Quota 0 belongs to no tenant. DESIGN CHOICE (log entry 25). `seq` is the
entry sequence counter, 64 bits wide (R48). -/
structure ActionStore where
  slots : List (Nat × Slot)
  quotas : Vector Nat 16
  seq : Word64
  deriving DecidableEq, Repr

/-! ## Dispatcher and operation path -/

/-- An entry of the firing schedule or of the gate calendar: a slot, its key time (due, open or close time) and its
entry sequence number (R65, R122). -/
structure TimedEntry where
  slot : Nat
  time : Nat
  seq : Word64
  deriving DecidableEq, Repr

/-- The phases of the operation path (R96). CHECK and WRITE_CHECK begin and end inside one step. -/
inductive Phase
  | idle | check | readWait | writeCheck | writeWait | pollGap | waiting | lineWait
  deriving DecidableEq, Repr

/-- What has stopped a running instance from outside its list (R112). -/
inductive Stop
  | budget | teardown | fatal
  deriving DecidableEq, Repr

/-- The share of the operation path of one engine (chapter 5). `onLink` is clear when HP answered the read at once with
an error (R199). -/
structure OpPath where
  phase : Phase
  readTimer : Nat
  pollLimitTimer : Nat
  pollSpacingTimer : Nat
  waitTimer : Nat
  lastValue : Word64
  onLink : Bool
  deriving DecidableEq, Repr

/-- The state of a fire engine (R68). -/
inductive EngineState
  | idle | bound | running | halted
  deriving DecidableEq, Repr

/-- A fire engine (section 4.2) with its operation path. `fresh` says that it was staged in the present reference
period (R72); `stop` is the stop that has reached it while a transaction or LINE request is in flight (R112). Budget and
run time are in ns. -/
structure Engine where
  state : EngineState
  slot : Nat
  due : Nat
  start : Nat
  budget : Nat
  runTime : Nat
  late : Bool
  operation : Nat
  fresh : Bool
  stop : Option Stop
  path : OpPath
  deriving DecidableEq, Repr

/-- DSP (R65 to R95). The lead is in µs and the budget in ms. `steps` are step events not yet acted on (R13). -/
structure Dispatcher where
  schedule : List TimedEntry
  engines : Vector Engine 4
  lead : Nat
  budget : Nat
  hold : Bool
  steps : List StepEvent
  deriving DecidableEq, Repr

/-! ## Window table -/

inductive WindowKind
  | grant | deny
  deriving DecidableEq, Repr

/-- A valid window (R138 to R140). Tenant n is bit n of `tenants`. -/
structure Window where
  kind : WindowKind
  base : Addr
  size : Nat
  tenants : BitVec 16
  read : Bool
  write : Bool
  deriving DecidableEq, Repr

/-! ## Line unit -/

/-- An input line record (R116). `level` is the level last sampled (unknown until the first sample after the line is
enabled, R118) and `sampled` says that the sample of the present reference period has been taken. The report select NONE
is `none`. -/
structure InputLine where
  enabled : Bool
  report : Option EdgeSelect
  reportRing : Option (Fin 16)
  spacing : Nat
  lastEdge : Option Nat
  suppressed : Nat
  level : Option Level
  sampled : Bool
  deriving DecidableEq, Repr

/-- An output line record (R131). The pin shows `level`. -/
structure OutputLine where
  owner : Option Nat
  safe : Level
  level : Level
  deriving DecidableEq, Repr

/-- LNU (R116 to R137). `steps` are step events not yet acted on (R13). -/
structure LineUnit where
  inputs : Vector InputLine 4
  calendar : List TimedEntry
  listen : Vector (List Nat) 4
  outputs : Vector OutputLine 4
  steps : List StepEvent
  deriving DecidableEq, Repr

/-! ## Timebase -/

inductive TimebaseState
  | unset | running
  deriving DecidableEq, Repr

/-- The slew record: none, a rate without end (duration 0), or a rate with its remaining elapsed time in ns. A timed slew
whose remaining time is 0 is to expire in the present reference period (R10, R11). -/
inductive Slew
  | none
  | endless (rate : Int)
  | timed (rate : Int) (remaining : Nat)
  deriving DecidableEq, Repr

/-- TB (R1 to R17). -/
structure Timebase where
  value : Nat
  fraction : Nat
  state : TimebaseState
  slew : Slew
  deriving DecidableEq, Repr

/-! ## Completion unit -/

inductive CqState
  | absent | active | faulted
  deriving DecidableEq, Repr

/-- The notification state of a ring (R187). -/
inductive NotifyState
  | armed | sent
  deriving DecidableEq, Repr

/-- A completion ring context (R175). The hold is in µs, the running hold timer in ns. -/
structure CqContext where
  state : CqState
  base : Addr
  size : Nat
  produced : Nat
  lap : Bool
  consumer : Nat
  unreleased : Nat
  owed : Nat
  outbox : List Completion
  lost : Nat
  notifyAddr : Addr
  notifyValue : Word32
  threshold : Nat
  hold : Nat
  notify : NotifyState
  pending : Nat
  holdTimer : Option Nat
  deriving DecidableEq, Repr

/-! ## The part -/

/-- The whole part, and the queue of commands that wait, first in, first out. -/
structure State where
  pending : List Instr
  hp : HostPort
  rqe : RequestEngine
  ast : ActionStore
  dsp : Dispatcher
  wtb : Vector (Option Window) 32
  lnu : LineUnit
  tb : Timebase
  cu : Vector CqContext 16
  deriving DecidableEq, Repr

/-- The part has no fault: the manual turns every failure into a status, a notice, a FAULTED ring or the condition
FATAL, all of which are next states. -/
inductive Fault
  deriving DecidableEq, Repr

/-- Why a command has no meaning. -/
inductive Refusal
  /-- Raised by an arm of `exec` whose command has no meaning yet (safe: the model stops). No arm raises it. -/
  | notModelled (mnemonic : String)
  deriving DecidableEq, Repr

/-! ## Reset -/

/-- A submission ring that is ABSENT: in flight and fetch hold clear, no credit (R152, R173). DESIGN CHOICE (log entry 5):
the fields without meaning are 0. -/
def SqContext.absent : SqContext :=
  { state := .absent, tenant := 0, base := 0, size := 0, head := 0, tail := 0, cq := 0, weight := 0,
    inFlight := false, fetchHold := false, credit := 0 }

/-- A completion ring that is ABSENT, lost count 0 (R175, R195). DESIGN CHOICE (log entry 5): the fields without meaning
are 0. -/
def CqContext.absent : CqContext :=
  { state := .absent, base := 0, size := 0, produced := 0, lap := false, consumer := 0, unreleased := 0, owed := 0,
    outbox := [], lost := 0, notifyAddr := 0, notifyValue := 0, threshold := 0, hold := 0, notify := .armed,
    pending := 0, holdTimer := none }

/-- An operation path that is IDLE with every timer 0 (R96). -/
def OpPath.reset : OpPath :=
  { phase := .idle, readTimer := 0, pollLimitTimer := 0, pollSpacingTimer := 0, waitTimer := 0, lastValue := 0,
    onLink := false }

/-- An IDLE engine (R68, R95). DESIGN CHOICE (log entry 5): the fields absent in IDLE are 0. -/
def Engine.released : Engine :=
  { state := .idle, slot := 0, due := 0, start := 0, budget := 0, runTime := 0, late := false, operation := 0,
    fresh := false, stop := none, path := OpPath.reset }

/-- An input line after reset (R116, R137). DESIGN CHOICE (log entry 6): the level is unknown and the sample of the
present period counts as taken. -/
def InputLine.reset : InputLine :=
  { enabled := false, report := none, reportRing := none, spacing := 0, lastEdge := none, suppressed := 0,
    level := none, sampled := true }

/-- An output line after reset (R131, R137). -/
def OutputLine.reset : OutputLine := { owner := none, safe := .low, level := .low }

/-- HP after reset (R206). PRESUMED (log entry 1): the bus master enable is clear, as the PCIe Command register's reset
value is. -/
def HostPort.reset : HostPort :=
  { condition := .off, enable := false, fatalBit := false, configError := false, adminSq := 0, adminCq := 0,
    latched := none, timeLatch := 0, busMaster := false, posted := [], credits := 0, bus := [], stale := [],
    answer := 0 }

/-- RQE after reset and after teardown (R173, R174). -/
def RequestEngine.reset : RequestEngine :=
  { sqs := Vector.replicate 16 SqContext.absent, ctxs := Vector.replicate 8 .free, pointer := 1 }

/-- AST after reset (R64). -/
def ActionStore.reset : ActionStore :=
  { slots := [], quotas := Vector.replicate 16 Config.resetQuota, seq := 0 }

/-- DSP after reset (R95). -/
def Dispatcher.reset : Dispatcher :=
  { schedule := [], engines := Vector.replicate 4 Engine.released, lead := Config.resetLeadUs,
    budget := Config.resetBudgetMs, hold := false, steps := [] }

/-- LNU after reset (R137). -/
def LineUnit.reset : LineUnit :=
  { inputs := Vector.replicate 4 InputLine.reset, calendar := [], listen := Vector.replicate 4 [],
    outputs := Vector.replicate 4 OutputLine.reset, steps := [] }

/-- TB after reset (R6). -/
def Timebase.reset : Timebase := { value := 0, fraction := 0, state := .unset, slew := .none }

/-- The machine right after reset, no command waiting (R206). -/
def State.reset : State :=
  { pending := [], hp := HostPort.reset, rqe := RequestEngine.reset, ast := ActionStore.reset,
    dsp := Dispatcher.reset, wtb := Vector.replicate 32 none, lnu := LineUnit.reset, tb := Timebase.reset,
    cu := Vector.replicate 16 CqContext.absent }

end Sys2Proof.Machine
end

