-- ==== Sys2Proof/Machine/Operands.lean ====
section
/-! DEFINITION. Reading the records that software writes: submission entries, operation records, the administrative ring
definitions and the POST and RELEASE words (11_formats.md, R208 to R210), with the shape checks that each request makes
on its fields. -/

namespace Sys2Proof.Machine

open Sys2Proof

/-! ## Request kinds and reserved bytes (R165, R209) -/

/-- The request kinds of section 11.5.1. -/
inductive ReqKind
  | arm | cancel | cancelAll | amend | query
  | identify | createSq | deleteSq | createCq | tuneCq | deleteCq | setTenantLimits | setWindow | clearWindow
  | configureInput | grantLine | revokeLine | setTime | stepTime | slewTime | readTimeState | setDispatch
  | holdDispatch | resumeDispatch
  deriving DecidableEq, Repr

/-- The kind that a kind code names (section 11.5.1). -/
def reqKindOf (code : Nat) : Option ReqKind :=
  match code with
  | 0x01 => some .arm
  | 0x02 => some .cancel
  | 0x03 => some .cancelAll
  | 0x04 => some .amend
  | 0x05 => some .query
  | 0x40 => some .identify
  | 0x41 => some .createSq
  | 0x42 => some .deleteSq
  | 0x43 => some .createCq
  | 0x44 => some .tuneCq
  | 0x45 => some .deleteCq
  | 0x46 => some .setTenantLimits
  | 0x47 => some .setWindow
  | 0x48 => some .clearWindow
  | 0x49 => some .configureInput
  | 0x4A => some .grantLine
  | 0x4B => some .revokeLine
  | 0x4C => some .setTime
  | 0x4D => some .stepTime
  | 0x4E => some .slewTime
  | 0x4F => some .readTimeState
  | 0x50 => some .setDispatch
  | 0x51 => some .holdDispatch
  | 0x52 => some .resumeDispatch
  | _ => none

/-- The tenant kinds (R165 step 3); the others are administrative. -/
def ReqKind.isTenant : ReqKind → Bool
  | .arm | .cancel | .cancelAll | .amend | .query => true
  | _ => false

/-- The byte ranges (first byte, length) that section 11.2 names for a kind. Every other byte is reserved (R209). -/
def ReqKind.namedBytes : ReqKind → List (Nat × Nat)
  | .arm => [(0, 56), (64, 64)]
  | .cancel | .query => [(0, 1), (4, 4)]
  | .amend => [(0, 18), (24, 8)]
  | .identify => [(0, 1), (8, 8)]
  | .createSq => [(0, 5), (8, 10)]
  | .createCq => [(0, 2), (8, 13), (24, 12)]
  | .tuneCq => [(0, 2), (18, 3), (24, 12)]
  | .setTenantLimits => [(0, 2), (8, 2)]
  | .setWindow => [(0, 6), (8, 16)]
  | .configureInput => [(0, 5), (8, 4)]
  | .grantLine => [(0, 4)]
  | .deleteSq | .deleteCq | .clearWindow | .revokeLine => [(0, 2)]
  | .setTime | .stepTime => [(0, 1), (8, 8)]
  | .slewTime => [(0, 1), (8, 6)]
  | .setDispatch => [(0, 1), (8, 4)]
  | .cancelAll | .readTimeState | .holdDispatch | .resumeDispatch => [(0, 1)]

/-- The bits of `len` bytes that begin at byte `off`. -/
def byteMask (off len : Nat) : Entry :=
  BitVec.ofNat 1024 ((2 ^ (8 * len) - 1) * 2 ^ (8 * off))

/-- The bits of the bytes that a kind names. -/
def ReqKind.namedMask (k : ReqKind) : Entry :=
  k.namedBytes.foldl (fun m r => m ||| byteMask r.1 r.2) 0

/-- The kind code of an entry, byte 0. -/
def kindCode (e : Entry) : Nat := bytesOf e 0 1

/-- Every reserved byte of the entry is zero for this kind (R165 step 2). -/
def reservedZero (k : ReqKind) (e : Entry) : Bool := (e &&& ~~~k.namedMask) == 0

/-- The three checks of R165 on an entry taken from a ring: the refusal status, or none if the entry is carried out. -/
def entryRefusal (ring : Fin 16) (e : Entry) : Option Status :=
  match reqKindOf (kindCode e) with
  | none => some .malformed
  | some k =>
    if !reservedZero k e then some .malformed
    else if k.isTenant == (ring == 0) then some .notPermitted
    else none

/-! ## Codes (section 11.5.5) -/

def latePolicyOf : Nat → Option LatePolicy
  | 1 => some .fire
  | 2 => some .skip
  | 3 => some .abort
  | _ => none

def faultPolicyOf : Nat → Option FaultPolicy
  | 1 => some .endAction
  | 2 => some .continueAction
  | _ => none

def completionModeOf : Nat → Option CompletionMode
  | 1 => some .every
  | 2 => some .finalAndFaults
  | _ => none

def edgeSelectOf : Nat → Option EdgeSelect
  | 1 => some .rise
  | 2 => some .fall
  | 3 => some .either
  | _ => none

def closePolicyOf : Nat → Option ClosePolicy
  | 1 => some .fail
  | 2 => some .fireAtClose
  | _ => none

def widthOf : Nat → Option Width
  | 32 => some .w32
  | 64 => some .w64
  | _ => none

def levelOf : Nat → Option Level
  | 1 => some .low
  | 2 => some .high
  | _ => none

/-- Output lines are written 1 … 4 for OUT0 … OUT3 (R210). -/
def outLineOf : Nat → Option (Fin 4)
  | 1 => some 0
  | 2 => some 1
  | 3 => some 2
  | 4 => some 3
  | _ => none

/-- A number below n, or none: input lines, rings, windows. -/
def finOf (n k : Nat) : Option (Fin n) :=
  if h : k < n then some ⟨k, h⟩ else none

/-- A size in entries that a ring may have: a power of two, 8 … 4096 (R152, R175). -/
def ringSizeOk (size : Nat) : Bool :=
  [8, 16, 32, 64, 128, 256, 512, 1024, 2048, 4096].contains size

/-! ## Widths -/

/-- The bytes of an access. -/
def Width.bytes : Width → Nat
  | .w32 => 4
  | .w64 => 8

/-- A value at an access width, the upper 32 bits zero for a 32-bit access (R33, R103, R110). -/
def Width.fit : Width → Word64 → Word64
  | .w32, x => x &&& 0xFFFFFFFF
  | .w64, x => x

/-- An address that an access of this width may have: a multiple of its length (R33). -/
def Width.aligned (w : Width) (a : Addr) : Bool := a.toNat % w.bytes == 0

/-! ## Operation records (R33 to R36, R210) -/

/-- The fields of an operation record (section 11.2.3). -/
structure OpFields where
  kind : Nat
  width : Nat
  line : Nat
  level : Nat
  param : Nat
  addr : Addr
  data : Word64
  mask : Word64
  deriving DecidableEq, Repr

/-- The fields of a 32-byte operation record. -/
def opFieldsOf (r : Record) : OpFields :=
  { kind := bytesOf r 0 1, width := bytesOf r 1 1, line := bytesOf r 2 1, level := bytesOf r 3 1,
    param := bytesOf r 4 4, addr := r.extractLsb' 64 64, data := r.extractLsb' 128 64, mask := r.extractLsb' 192 64 }

/-- The record that holds the given fields (section 11.2.3). -/
def recordOf (f : OpFields) : Record :=
  (f.mask ++ f.data ++ f.addr ++ BitVec.ofNat 32 f.param ++ BitVec.ofNat 8 f.level ++ BitVec.ofNat 8 f.line
    ++ BitVec.ofNat 8 f.width ++ BitVec.ofNat 8 f.kind : BitVec (64 + 64 + 64 + 32 + 8 + 8 + 8 + 8))

/-- The fields that an access kind does not use are zero: line and level. -/
def OpFields.noLine (f : OpFields) : Bool := f.line == 0 && f.level == 0

/-- Data and mask fit the width: their upper 32 bits are zero for a 32-bit access (R33). -/
def OpFields.fits (f : OpFields) (w : Width) : Bool := w.fit f.data == f.data && w.fit f.mask == f.mask

/-- The width and address checks of an access kind: width 32 or 64, an address aligned to it, line and level zero, data
and mask within the width (R33). -/
def OpFields.access? (f : OpFields) : Option Width :=
  match widthOf f.width with
  | none => none
  | some w => if f.noLine && w.aligned f.addr && f.fits w then some w else none

/-- The operation that a record holds, or none where the shape checks of R33 to R36 refuse it with BAD_FIELD (step 4 of
R37). -/
def OpFields.op? (f : OpFields) : Option Op :=
  match f.kind with
  | 1 => match f.access? with
    | some w => if f.param == 0 && f.mask == 0 then some (.write w f.addr f.data) else none
    | none => none
  | 2 => match f.access? with
    | some w => if f.param == 0 && f.data == 0 && f.mask == 0 then some (.read w f.addr) else none
    | none => none
  | 3 => match f.access? with
    | some w => if f.param == 0 then some (.maskedWrite w f.addr f.data f.mask) else none
    | none => none
  | 4 => match f.access? with
    | some w =>
      if decide (1000 ≤ f.param ∧ f.param ≤ Config.maxWaitNs) then some (.poll w f.addr f.data f.mask f.param) else none
    | none => none
  | 5 => match f.access? with
    | some .w64 => if f.param == 0 && f.data == 0 && f.mask == 0 then some (.stamp f.addr) else none
    | _ => none
  | 6 =>
    if f.width == 0 && f.param == 0 && f.addr == 0 && f.data == 0 && f.mask == 0 then
      match outLineOf f.line, levelOf f.level with
      | some l, some v => some (.line l v)
      | _, _ => none
    else none
  | 7 =>
    if f.width == 0 && f.noLine && f.addr == 0 && f.data == 0 && f.mask == 0
        && decide (8 ≤ f.param ∧ f.param ≤ Config.maxWaitNs) then some (.wait f.param) else none
  | _ => none

/-- The operation that a 32-byte record holds, or none where it is refused with BAD_FIELD. -/
def opOf (r : Record) : Option Op := (opFieldsOf r).op?

/-- The code of a width, a level and an output line (R210, section 11.5.5). -/
def Width.code : Width → Nat
  | .w32 => 32
  | .w64 => 64

def Level.code : Level → Nat
  | .low => 1
  | .high => 2

/-- The fields of the record that holds an operation, every field its kind does not use zero (R33). -/
def Op.fields : Op → OpFields
  | .write w a d => { kind := 1, width := w.code, line := 0, level := 0, param := 0, addr := a, data := d, mask := 0 }
  | .read w a => { kind := 2, width := w.code, line := 0, level := 0, param := 0, addr := a, data := 0, mask := 0 }
  | .maskedWrite w a d m =>
    { kind := 3, width := w.code, line := 0, level := 0, param := 0, addr := a, data := d, mask := m }
  | .poll w a d m lim =>
    { kind := 4, width := w.code, line := 0, level := 0, param := lim, addr := a, data := d, mask := m }
  | .stamp a => { kind := 5, width := 64, line := 0, level := 0, param := 0, addr := a, data := 0, mask := 0 }
  | .line l v =>
    { kind := 6, width := 0, line := l.val + 1, level := v.code, param := 0, addr := 0, data := 0, mask := 0 }
  | .wait n => { kind := 7, width := 0, line := 0, level := 0, param := n, addr := 0, data := 0, mask := 0 }

/-- The record that holds an operation. -/
def encodeOp (o : Op) : Record := recordOf o.fields

/-- The operations that an action can hold (R33 to R36): aligned addresses, 32-bit data and mask within 32 bits, a POLL
limit and a WAIT length in range. -/
def Op.valid : Op → Bool
  | .write w a d => w.aligned a && w.fit d == d
  | .read w a => w.aligned a
  | .maskedWrite w a d m => w.aligned a && w.fit d == d && w.fit m == m
  | .poll w a d m lim =>
    w.aligned a && w.fit d == d && w.fit m == m && decide (1000 ≤ lim ∧ lim ≤ Config.maxWaitNs)
  | .stamp a => Width.w64.aligned a
  | .line _ _ => true
  | .wait n => decide (8 ≤ n ∧ n ≤ Config.maxWaitNs)

/-! ## ARM (section 11.2.2, R20 to R32) -/

/-- The fields of an ARM entry. -/
structure ArmFields where
  dueMode : Nat
  latePolicy : Nat
  faultPolicy : Nat
  tag : Word32
  dueValue : Nat
  period : Nat
  count : Nat
  tolerance : Nat
  completionMode : Nat
  opCount : Nat
  listAddr : Addr
  gated : Nat
  gateLine : Nat
  gateEdge : Nat
  closePolicy : Nat
  delay : Nat
  listen : Nat
  inline1 : Record
  inline2 : Record
  deriving DecidableEq, Repr

/-- The fields of an ARM entry, by their byte positions. -/
def armFieldsOf (e : Entry) : ArmFields :=
  { dueMode := bytesOf e 1 1, latePolicy := bytesOf e 2 1, faultPolicy := bytesOf e 3 1, tag := e.extractLsb' 32 32,
    dueValue := bytesOf e 8 8, period := bytesOf e 16 8, count := bytesOf e 24 4, tolerance := bytesOf e 28 2,
    completionMode := bytesOf e 30 1, opCount := bytesOf e 31 1, listAddr := e.extractLsb' 256 64,
    gated := bytesOf e 40 1, gateLine := bytesOf e 41 1, gateEdge := bytesOf e 42 1, closePolicy := bytesOf e 43 1,
    delay := bytesOf e 44 4, listen := bytesOf e 48 8, inline1 := e.extractLsb' 512 256,
    inline2 := e.extractLsb' 768 256 }

/-- The due modes of an ARM (R21, R22). -/
inductive DueMode
  | absolute | relative | aligned
  deriving DecidableEq, Repr

def dueModeOf : Nat → Option DueMode
  | 1 => some .absolute
  | 2 => some .relative
  | 3 => some .aligned
  | _ => none

/-- The gate fields of a gated ARM, with their codes read (R30). -/
structure GateParams where
  line : Fin 4
  edge : EdgeSelect
  closePolicy : ClosePolicy
  delay : Nat
  listen : Nat
  deriving DecidableEq, Repr

/-- The coded fields of an ARM that passes step 2 of R37. -/
structure ArmParams where
  mode : DueMode
  latePolicy : LatePolicy
  faultPolicy : FaultPolicy
  completionMode : CompletionMode
  gate : Option GateParams
  deriving DecidableEq, Repr

/-- A period that an ARM may carry: 0, or 1,000 … 2^48 (R24). -/
def periodOk (p : Nat) : Bool := p == 0 || decide (Config.minPeriod ≤ p ∧ p ≤ Config.maxPeriod)

/-- The due mode with the ALIGNED conditions of R22: a nonzero period and a phase below it. -/
def ArmFields.mode? (f : ArmFields) : Option DueMode :=
  match dueModeOf f.dueMode with
  | some .aligned => if f.period != 0 && decide (f.dueValue < f.period) then some .aligned else none
  | m => m

/-- The gate part (R24, R30): `some none` for an ungated ARM whose gate fields are all zero, `some (some g)` for a gated
ARM whose gate fields are in range and whose period is 0, `none` where it is refused. -/
def ArmFields.gate? (f : ArmFields) : Option (Option GateParams) :=
  match f.gated with
  | 0 =>
    if f.gateLine == 0 && f.gateEdge == 0 && f.closePolicy == 0 && f.delay == 0 && f.listen == 0 then some none else none
  | 1 =>
    match finOf 4 f.gateLine, edgeSelectOf f.gateEdge, closePolicyOf f.closePolicy with
    | some l, some k, some c =>
      if decide (1 ≤ f.listen ∧ f.listen ≤ Config.maxListen) && f.period == 0 then
        some (some { line := l, edge := k, closePolicy := c, delay := f.delay, listen := f.listen })
      else none
    | _, _, _ => none
  | _ => none

/-- The operation count, the list address and the unused inline slots (R32). -/
def ArmFields.listShapeOk (f : ArmFields) : Bool :=
  match f.opCount with
  | 1 => f.listAddr == 0 && f.inline2 == 0
  | 2 => f.listAddr == 0
  | n => decide (3 ≤ n ∧ n ≤ 8) && f.listAddr.toNat % 32 == 0 && f.inline1 == 0 && f.inline2 == 0

/-- Step 2 of R37: every check of the record fields of an ARM. None gives BAD_FIELD with operation index 0. -/
def ArmFields.params? (f : ArmFields) : Option ArmParams :=
  match f.mode?, latePolicyOf f.latePolicy, faultPolicyOf f.faultPolicy, completionModeOf f.completionMode, f.gate? with
  | some m, some l, some p, some c, some g =>
    if periodOk f.period && f.listShapeOk then
      some { mode := m, latePolicy := l, faultPolicy := p, completionMode := c, gate := g }
    else none
  | _, _, _, _, _ => none

/-- A valid time, or none above 2^63 − 1 (R1). -/
def validTime? (t : Nat) : Option Nat := if t ≤ Config.maxTime then some t else none

/-- The smallest time that is at least `from` and leaves `phase` modulo `period` (R22). -/
def alignedFrom (start phase period : Nat) : Nat :=
  start + (phase + period - start % period) % period

/-- The first due of R21 and R22, from the arm sample and the lead in µs, or none where it lies above 2^63 − 1. -/
def firstDue? (mode : DueMode) (dueValue period sample lead : Nat) : Option Nat :=
  match mode with
  | .absolute => validTime? dueValue
  | .relative => validTime? (sample + dueValue)
  | .aligned => validTime? (alignedFrom (sample + 1000 * lead) dueValue period)

/-- Step 3 of R37 for the gate part: the close time and the close time plus the delay lie within the valid times (R31). -/
def gateTimesOk (openTime : Nat) (g : GateParams) : Bool :=
  decide (openTime + g.listen ≤ Config.maxTime ∧ openTime + g.listen + g.delay ≤ Config.maxTime)

/-- The records of an operation list, from record 1, for a count of records (section 11.2.3). -/
def listRecords (bytes : ListBytes) (count : Nat) : List Record :=
  (List.range count).map (fun i => bytes.extractLsb' (256 * i) 256)

/-- The inline records that the count of an ARM uses: one or two, none for a host list (R32). -/
def ArmFields.inlineRecords (f : ArmFields) : List Record :=
  match f.opCount with
  | 1 => [f.inline1]
  | 2 => [f.inline1, f.inline2]
  | _ => []

/-! ## AMEND (section 11.2.4, R58) -/

/-- The fields of an AMEND entry. -/
structure AmendFields where
  dueMode : Nat
  tolerancePresent : Nat
  periodPresent : Nat
  tag : Word32
  dueValue : Nat
  tolerance : Nat
  period : Nat
  deriving DecidableEq, Repr

def amendFieldsOf (e : Entry) : AmendFields :=
  { dueMode := bytesOf e 1 1, tolerancePresent := bytesOf e 2 1, periodPresent := bytesOf e 3 1,
    tag := e.extractLsb' 32 32, dueValue := bytesOf e 8 8, tolerance := bytesOf e 16 2, period := bytesOf e 24 8 }

/-- Step 1 of R58. -/
def AmendFields.shapeOk (f : AmendFields) : Bool :=
  (f.dueMode == 1 || f.dueMode == 2)
    && decide (f.tolerancePresent ≤ 1) && decide (f.periodPresent ≤ 1)
    && (f.tolerancePresent == 1 || f.tolerance == 0)
    && (if f.periodPresent == 1 then decide (Config.minPeriod ≤ f.period ∧ f.period ≤ Config.maxPeriod)
        else f.period == 0)

/-- The new due of R58 step 5, before it is checked. -/
def AmendFields.newDue (f : AmendFields) (sample : Nat) : Nat :=
  if f.dueMode == 1 then f.dueValue else sample + f.dueValue

/-- The tag of CANCEL, AMEND and QUERY, bytes 4 … 7. -/
def tagOf (e : Entry) : Word32 := e.extractLsb' 32 32

/-! ## Windows (section 11.2.5, R145) -/

/-- The window that a SET WINDOW entry describes, or none where its fields are refused with BAD_FIELD. -/
def windowOf (e : Entry) : Option Window :=
  let size := bytesOf e 16 8
  let base : Addr := e.extractLsb' 64 64
  let rights := bytesOf e 3 1
  let tenants : BitVec 16 := e.extractLsb' 32 16
  let kind := bytesOf e 2 1
  if (kind == 1 || kind == 2) && decide (64 ≤ size ∧ size ≤ 2 ^ 48) && 2 ^ size.log2 == size
      && base.toNat % size == 0 && !tenants.getLsbD 0 && decide (rights ≤ 3) then
    some { kind := if kind == 1 then .grant else .deny, base := base, size := size, tenants := tenants,
           read := rights.testBit 0, write := rights.testBit 1 }
  else none

/-! ## Ring commands (section 11.2.5, R168, R192, R193) -/

/-- The notification fields of CREATE and TUNE COMPLETION RING. -/
structure NotifyFields where
  addr : Addr
  value : Word32
  threshold : Nat
  hold : Nat
  deriving DecidableEq, Repr

def notifyFieldsOf (e : Entry) : NotifyFields :=
  { addr := e.extractLsb' 192 64, value := e.extractLsb' 256 32, threshold := bytesOf e 20 1, hold := bytesOf e 18 2 }

/-- The notification checks of step 3 of R192. Every value of the 16-bit hold is in range. -/
def NotifyFields.ok (f : NotifyFields) : Bool :=
  f.addr.toNat % 4 == 0 && (f.addr != 0 || f.value == 0) && decide (1 ≤ f.threshold ∧ f.threshold ≤ 64)

/-- A ring base that is a multiple of 4 KiB. -/
def baseOk (a : Addr) : Bool := a.toNat % 4096 == 0

/-! ## Registers (section 11.1, R208) -/

/-- The size code, the size and the base of an administrative ring definition. -/
def adminSize (d : Word64) : Nat := 2 ^ (d.extractLsb' 0 4).toNat

def adminBase (d : Word64) : Addr := d &&& ~~~(0xFFF : Word64)

/-- A definition is valid when its size code is 3 … 12 and bits 11:4 are 0 (R202, R208). -/
def adminValid (d : Word64) : Bool :=
  decide (3 ≤ (d.extractLsb' 0 4).toNat ∧ (d.extractLsb' 0 4).toNat ≤ 12) && d.extractLsb' 4 8 == 0

/-- The index, the ring and the reserved bits of a POST or RELEASE word. -/
def wordIndex (d : Word64) : Nat := (d.extractLsb' 0 16).toNat

def wordRing (d : Word64) : Fin 16 := (d.extractLsb' 16 4).toFin

def wordReserved (d : Word64) : Bool := d.extractLsb' 20 44 != 0

end Sys2Proof.Machine
end

