-- ==== Sys2Proof/Machine/Flags.lean ====
section
/-! DEFINITION. Codes, status bits and completion flags: the STATUS word (R200), the code tables of section 11.5, the
layout of a completion entry (section 11.3, R211) and of the identity record (section 11.4, R212), and the flags of a fire
completion (R79, R85, R86). -/

namespace Sys2Proof.Machine

open Sys2Proof

/-! ## Codes (section 11.5) -/

def Status.code : Status → Nat
  | .ok => 0x00
  | .malformed => 0x01
  | .notPermitted => 0x02
  | .badField => 0x03
  | .badTime => 0x04
  | .timebaseUnset => 0x05
  | .noRing => 0x06
  | .alreadyExists => 0x07
  | .inUse => 0x08
  | .wrongState => 0x09
  | .duplicateTag => 0x0A
  | .unknownTag => 0x0B
  | .storeFull => 0x0C
  | .quotaExceeded => 0x0D
  | .listFetchError => 0x0E
  | .tooLate => 0x0F
  | .cancelDeferred => 0x10
  | .accessDenied => 0x20
  | .lineDenied => 0x21
  | .busError => 0x22
  | .pollExpired => 0x23
  | .overrun => 0x24
  | .lateSkipped => 0x25
  | .lateAborted => 0x26
  | .gateClosed => 0x27
  | .badPost => 0x40
  | .badRelease => 0x41
  | .sqFaulted => 0x42
  | .sqRetired => 0x43
  | .cqFaulted => 0x44

/-- The faults of an instance (R28). -/
def Status.isFault : Status → Bool
  | .accessDenied | .lineDenied | .busError | .pollExpired | .overrun => true
  | _ => false

def CompletionKind.code : CompletionKind → Nat
  | .request => 1
  | .fire => 2
  | .edge => 3
  | .notice => 4

def SlotState.code : SlotState → Nat
  | .pending => 1
  | .armed => 2
  | .awaiting => 3
  | .listening => 4
  | .staged => 5
  | .firing => 6

def TimebaseState.code : TimebaseState → Nat
  | .unset => 1
  | .running => 2

def SqState.code : SqState → Nat
  | .absent => 0
  | .active => 1
  | .faulted => 2
  | .deleting => 3

def CqState.code : CqState → Nat
  | .absent => 0
  | .active => 1
  | .faulted => 2

/-- The condition of a window before a command: 0 for invalid, else its kind code (R146). -/
def windowCode : Option Window → Nat
  | none => 0
  | some w => match w.kind with
    | .grant => 1
    | .deny => 2

def edgeCode : EdgeKind → Nat
  | .rise => 1
  | .fall => 2

/-! ## Registers (section 11.1) -/

def bit (b : Bool) : BitVec 1 := BitVec.ofBool b

/-- IDENT: vendor code, part code, revision, 0. -/
def identWord : Word64 := (0 : BitVec 16) ++ Config.revision ++ Config.partCode ++ Config.vendorCode

/-- STATUS: the six fields of R200, all from one moment. -/
def statusWord (s : State) : Word64 :=
  ((0 : BitVec 58) ++ bit s.dsp.hold ++ bit (s.tb.state == .running) ++ bit s.hp.configError ++ bit s.hp.fatalBit
    ++ bit (s.hp.condition == .teardown) ++ bit (s.hp.condition == .ready) : BitVec (58 + 1 + 1 + 1 + 1 + 1 + 1))

/-! ## The completion entry (section 11.3, R211) -/

/-- The 32 bytes of a completion entry with the ring's lap and lost count: the LOST flag is set when the lost count is not
0 (R183). -/
def Completion.encode (c : Completion) (lap : Bool) (lost : Nat) : Record :=
  (c.value ++ BitVec.ofNat 64 c.time ++ BitVec.ofNat 32 c.aux32 ++ c.tag ++ BitVec.ofNat 16 c.aux16
    ++ BitVec.ofNat 16 lost ++ BitVec.ofNat 4 c.opIndex ++ bit (lost != 0) ++ bit c.cancelled ++ bit c.final
    ++ bit c.late ++ BitVec.ofNat 8 c.source ++ BitVec.ofNat 8 c.status.code ++ bit lap ++ (0 : BitVec 4)
    ++ BitVec.ofNat 3 c.kind.code : BitVec (64 + 64 + 32 + 32 + 16 + 16 + 4 + 1 + 1 + 1 + 1 + 8 + 8 + 1 + 4 + 3))

/-- Two packed fields of a value field (R211). -/
def packValue (low width high : Nat) : Word64 := BitVec.ofNat 64 (low % 2 ^ width + high * 2 ^ width)

/-- Slew data: bits 31:0 the rate in two's complement, bits 47:32 the remaining ms (R211). -/
def slewData (rate : Int) (ms : Nat) : Word64 :=
  ((0 : BitVec 16) ++ BitVec.ofNat 16 ms ++ BitVec.ofInt 32 rate : BitVec (16 + 16 + 32))

/-! ## The identity record (section 11.4, R212) -/

/-- The identity record, byte 63 first. -/
def identityRecord : IdentityRecord :=
  ((0 : BitVec 256) ++ (100 : BitVec 32) ++ (8 : BitVec 32) ++ (0 : BitVec 16) ++ (32 : BitVec 8) ++ (64 : BitVec 8)
    ++ (8 : BitVec 8) ++ (8 : BitVec 8) ++ (1024 : BitVec 16) ++ (4 : BitVec 8) ++ (4 : BitVec 8) ++ (4 : BitVec 8)
    ++ (15 : BitVec 8) ++ (16 : BitVec 16) ++ (16 : BitVec 16) ++ (0 : BitVec 16) ++ Config.revision ++ Config.partCode
    ++ Config.vendorCode
    : BitVec (256 + 32 + 32 + 16 + 8 + 8 + 8 + 8 + 16 + 8 + 8 + 8 + 8 + 16 + 16 + 16 + 16 + 16 + 16))

/-! ## Counts that stay at their limit (R81, R119, R183) -/

/-- A count raised by `n` that stays at 65,535 once it gets there. -/
def raise (count n : Nat) : Nat := min (count + n) Config.countLimit

/-! ## Recurrence and the flags of a fire completion (R79 to R86) -/

/-- Whether an action is recurring: its period is nonzero (R24). -/
def Slot.recurring (x : Slot) : Bool := x.period != 0

/-- The k of R80: the smallest k ≥ 1 for which due + k × period lies strictly after the end sample. -/
def nextStep (due period endSample : Nat) : Nat := (endSample - due) / period + 1

/-- The accounting of one instance end (R78 to R86). -/
structure EndReport where
  ends : Bool
  nextDue : Nat
  ended : Nat
  used : Nat
  missed : Nat
  lateCarry : Bool
  posted : Bool
  reportedMissed : Nat
  late : Bool
  cancelled : Bool
  deriving DecidableEq, Repr

/-- What the end of an instance with this due time, status and late mark brings about in its slot and in its completion,
at an end sample. -/
def endReport (x : Slot) (due : Nat) (late : Bool) (status : Status) (endSample : Nat) : EndReport :=
  let k := nextStep due x.period endSample
  let next := due + k * x.period
  let found := if x.recurring then k - 1 else 0
  let room := x.count - (x.used + 1)
  let added := if x.count == 0 then found else min found room
  let used := if x.count == 0 then x.used else x.used + 1 + added
  let ends := !x.recurring || status == .lateAborted || (status.isFault && x.faultPolicy == .endAction)
    || x.endRequested || (x.count != 0 && decide (x.count ≤ used)) || decide (Config.maxTime < next)
  let ran := status != .lateSkipped && status != .lateAborted
  let withheld := x.completionMode == .finalAndFaults && !ends && (status == .ok || status == .lateSkipped)
  { ends := ends
    nextDue := next
    ended := (x.ended + 1) % 2 ^ 32
    used := used
    missed := if withheld then raise x.missed added else if ends then 0 else raise 0 added
    lateCarry := withheld && (x.lateCarry || late)
    posted := !withheld
    reportedMissed := if ends then raise x.missed added else x.missed
    late := (late && ran) || x.lateCarry
    cancelled := ends && x.endRequested }

end Sys2Proof.Machine
end

