-- ==== Sys2Proof/Machine/Ops.lean ====
section
/-! DEFINITION. The operations that several commands share: access to the blocks' tables, the link (HP), writing and
posting completions (CU), completing requests and retiring rings (RQE), slots and their places (AST), the permission test
(WTB). -/

namespace Sys2Proof.Machine

open Sys2Proof

/-! ## Access to the tables -/

def State.sq (s : State) (r : Fin 16) : SqContext := s.rqe.sqs[r]

def State.setSq (s : State) (r : Fin 16) (x : SqContext) : State :=
  { s with rqe := { s.rqe with sqs := s.rqe.sqs.set r x } }

def State.ctx (s : State) (c : Fin 8) : ReqContext := s.rqe.ctxs[c]

def State.setCtx (s : State) (c : Fin 8) (x : ReqContext) : State :=
  { s with rqe := { s.rqe with ctxs := s.rqe.ctxs.set c x } }

def State.cq (s : State) (q : Fin 16) : CqContext := s.cu[q]

def State.setCq (s : State) (q : Fin 16) (x : CqContext) : State := { s with cu := s.cu.set q x }

def State.engine (s : State) (e : Fin 4) : Engine := s.dsp.engines[e]

def State.setEngine (s : State) (e : Fin 4) (x : Engine) : State :=
  { s with dsp := { s.dsp with engines := s.dsp.engines.set e x } }

def State.input (s : State) (l : Fin 4) : InputLine := s.lnu.inputs[l]

def State.setInput (s : State) (l : Fin 4) (x : InputLine) : State :=
  { s with lnu := { s.lnu with inputs := s.lnu.inputs.set l x } }

def State.output (s : State) (l : Fin 4) : OutputLine := s.lnu.outputs[l]

def State.setOutput (s : State) (l : Fin 4) (x : OutputLine) : State :=
  { s with lnu := { s.lnu with outputs := s.lnu.outputs.set l x } }

/-- The timebase sample of the present reference period (R14). -/
def State.now (s : State) : Nat := s.tb.value

/-- The part is neither FATAL nor in teardown. -/
def State.live (s : State) : Bool := s.hp.condition != .fatal && s.hp.condition != .teardown

/-- The part is READY. -/
def State.isReady (s : State) : Bool := s.hp.condition == .ready

/-! ## The link (R100, R177, R199) -/

/-- Places a transaction on the link. -/
def State.place (s : State) (t : BusTxn) : State := { s with hp := { s.hp with bus := s.hp.bus ++ [t] } }

/-- Places a transaction on the link, unless the bus master enable is clear: HP then issues nothing, answers a read at once
as an error and discards a write of the operation path (R199). -/
def State.placeIfMaster (s : State) (t : BusTxn) : State := if s.hp.busMaster then s.place t else s

/-- The link takes a posted write now: no write waits before it and the link has a credit left. -/
def HostPort.linkOpen (h : HostPort) : Bool := h.posted.isEmpty && decide (0 < h.credits)

def State.linkOpen (s : State) : Bool := s.hp.linkOpen

/-- Places a posted write on the link, which takes one credit. -/
def State.placePosted (s : State) (t : BusTxn) : State :=
  { s with hp := { s.hp with bus := s.hp.bus ++ [t], credits := s.hp.credits - 1 } }

/-- Appends a posted write to those that wait for the link. -/
def State.queuePosted (s : State) (p : Posted) : State := { s with hp := { s.hp with posted := s.hp.posted ++ [p] } }

/-- Notes a read that the part has given up and whose data may still return (R101, R164, R173). DESIGN CHOICE (log
entry 4). -/
def State.noteStale (s : State) (r : ReadSource) : State := { s with hp := { s.hp with stale := s.hp.stale ++ [r] } }

/-- The transaction of a CU write. -/
def CuWrite.txn : CuWrite → BusTxn
  | .entry r a d => .cuEntry r a d
  | .notify r a v => .cuNotify r a v

/-- The completion ring of a CU write. -/
def CuWrite.ring : CuWrite → Fin 16
  | .entry r _ _ => r
  | .notify r _ _ => r

/-- HP takes a write that CU hands over. It is issued at once where the link takes it, waits in its order where the link
does not, and is refused while the bus master enable is clear (R177, R199). A refused write stands in the queue until
COMPLETION_WRITE_FAILED carries out its failure. DESIGN CHOICE (log entry 15). -/
def HostPort.takeCuWrite (h : HostPort) (w : CuWrite) : HostPort :=
  if h.busMaster then
    if h.linkOpen then { h with bus := h.bus ++ [w.txn], credits := h.credits - 1 }
    else { h with posted := h.posted ++ [.cu w false] }
  else { h with posted := h.posted ++ [.cu w true] }

/-- CU hands a write to HP (R177). -/
def State.handCuWrite (s : State) (w : CuWrite) : State := { s with hp := s.hp.takeCuWrite w }

/-! ## Completion rings (R177 to R190) -/

/-- Free space less owed, the room for completions that hold no reservation (R178). -/
def CqContext.room (x : CqContext) : Nat := x.size - x.unreleased - x.owed

/-- Entries of the pool in use (R182). -/
def State.poolUsed (s : State) : Nat := (s.cu.toList.map (fun x => x.outbox.length)).sum

/-- The hold timer has reached the hold (R187). -/
def CqContext.holdReached (x : CqContext) : Bool :=
  match x.holdTimer with
  | some t => decide (1000 * x.hold ≤ t)
  | none => false

/-- A notification is due (R187). -/
def CqContext.notifyDue (x : CqContext) : Bool :=
  x.state == .active && x.notify == .armed && x.notifyAddr != 0
    && (decide (x.threshold ≤ x.pending) || (decide (1 ≤ x.pending) && x.holdReached))

/-- The context once a notification has been sent (R188). -/
def CqContext.notified (x : CqContext) : CqContext := { x with notify := .sent, pending := 0, holdTimer := none }

/-- Sends a notification if one is due (R187, R188). -/
def State.notifyIfDue (s : State) (q : Fin 16) : State :=
  if (s.cq q).notifyDue then
    (s.setCq q (s.cq q).notified).handCuWrite (.notify q (s.cq q).notifyAddr (s.cq q).notifyValue)
  else s

/-- The address of the entry at an index of a ring of 32-byte entries (R175, R177). DESIGN CHOICE (log entry 39): a sum past
2^64 − 1 wraps to 64 bits. -/
def CqContext.entryAddr (x : CqContext) (i : Nat) : Addr := x.base + BitVec.ofNat 64 (32 * i)

/-- The context once an entry has been handed to HP: one more unreleased, the produced index at the next position, the lap
inverted at the wrap, the lost count reported and cleared, and in ARMED one more pending, the first of which starts the
hold timer (R177, R183, R187). DESIGN CHOICE (log entry 38): lost count, pending and hold timer change at the hand-over, also
where the write then waits for the link. -/
def CqContext.afterWrite (x : CqContext) : CqContext :=
  { x with
    unreleased := x.unreleased + 1
    produced := (x.produced + 1) % x.size
    lap := if x.produced + 1 = x.size then !x.lap else x.lap
    lost := 0
    pending := if x.notify = .armed then x.pending + 1 else x.pending
    holdTimer := if x.notify = .armed ∧ x.pending = 0 then some 0 else x.holdTimer }

/-- CU writes an entry at the produced index of an ACTIVE ring, and sends the notification that becomes due by it after it
(R177, R187), in the step in which the entry is handed to HP (log entry 38). -/
def State.writeEntry (s : State) (q : Fin 16) (c : Completion) : State :=
  let x := s.cq q
  ((s.setCq q x.afterWrite).handCuWrite (.entry q (x.entryAddr x.produced) (c.encode x.lap x.lost))).notifyIfDue q

/-- Counts a completion lost to a ring (R183). -/
def State.loseCompletion (s : State) (q : Fin 16) : State :=
  s.setCq q { s.cq q with lost := raise (s.cq q).lost 1 }

/-- A fire, edge or notice completion handed to CU for a ring (R181): written, held in the outbox, lost, or discarded. In
FATAL and in teardown it is discarded without being counted (R191, R195). -/
def State.postCompletion (s : State) (q : Fin 16) (c : Completion) : State :=
  if !s.live then s
  else match (s.cq q).state with
    | .absent => s
    | .faulted => s.loseCompletion q
    | .active =>
      if (s.cq q).outbox.isEmpty && decide (1 ≤ (s.cq q).room) then s.writeEntry q c
      else if s.poolUsed < Config.poolSize then s.setCq q { s.cq q with outbox := (s.cq q).outbox ++ [c] }
      else s.loseCompletion q

/-- Writes held completions oldest first while there is room, for at most `n` of them (R182). -/
def State.drainUpTo (q : Fin 16) : Nat → State → State
  | 0, s => s
  | n + 1, s =>
    match (s.cq q).outbox with
    | [] => s
    | c :: rest =>
      if 1 ≤ (s.cq q).room then State.drainUpTo q n ((s.setCq q { s.cq q with outbox := rest }).writeEntry q c) else s

/-- The outbox of an ACTIVE ring drains (R182). -/
def State.drain (s : State) (q : Fin 16) : State :=
  if (s.cq q).state = .active then State.drainUpTo q (s.cq q).outbox.length s else s

/-- A reservation is released, and the outbox drains in the same step (R164, R179). -/
def State.releaseReservation (s : State) (q : Fin 16) : State :=
  (s.setCq q { s.cq q with owed := (s.cq q).owed - 1 }).drain q

/-- A request completion handed to CU against its reservation (R180): written at once, or lost and counted at a FAULTED
ring. -/
def State.writeRequestCompletion (s : State) (q : Fin 16) (c : Completion) : State :=
  let t := s.setCq q { s.cq q with owed := (s.cq q).owed - 1 }
  match (s.cq q).state with
  | .absent => t
  | .faulted => t.loseCompletion q
  | .active => t.writeEntry q c

/-- A notice, to completion ring 0 (section 9.6). Its time field carries the present sample and its tag is 0. -/
def State.postNotice (s : State) (code : Status) (source aux16 aux32 : Nat) (value : Word64) : State :=
  s.postCompletion 0
    { kind := .notice, status := code, source := source, aux16 := aux16, aux32 := aux32, time := s.now, value := value }

/-! ## The action store (R41 to R48) -/

/-- The slot of this number, if it is occupied. -/
def slotGet : List (Nat × Slot) → Nat → Option Slot
  | [], _ => none
  | (k, x) :: rest, id => if k = id then some x else slotGet rest id

/-- Occupies a slot, or replaces its content, keeping the numbers rising. -/
def slotPut : List (Nat × Slot) → Nat → Slot → List (Nat × Slot)
  | [], id, x => [(id, x)]
  | (k, y) :: rest, id, x =>
    if id < k then (id, x) :: (k, y) :: rest
    else if id = k then (id, x) :: rest
    else (k, y) :: slotPut rest id x

/-- Makes a slot FREE. -/
def slotDel (l : List (Nat × Slot)) (id : Nat) : List (Nat × Slot) := l.filter (fun p => p.1 != id)

/-- The lowest FREE slot number at or above `n`, the occupied numbers rising. DESIGN CHOICE (log entry 11): which FREE
slot is taken cannot be seen by software (R41). -/
def lowestFree : Nat → List (Nat × Slot) → Nat
  | n, [] => n
  | n, (k, _) :: rest => if k = n then lowestFree (n + 1) rest else n

def State.slot? (s : State) (id : Nat) : Option Slot := slotGet s.ast.slots id

def State.setSlot (s : State) (id : Nat) (x : Slot) : State :=
  { s with ast := { s.ast with slots := slotPut s.ast.slots id x } }

/-- The occupied slots of a submission ring. -/
def State.slotsOfRing (s : State) (r : Fin 16) : List (Nat × Slot) := s.ast.slots.filter (fun p => p.2.ring == r)

/-- The tag index of a ring (R45): the slot that holds a tag, if any. -/
def State.tagLookup (s : State) (r : Fin 16) (tag : Word32) : Option (Nat × Slot) :=
  s.ast.slots.find? (fun p => p.2.ring == r && p.2.tag == tag)

/-- A tenant's holdings (R46): the occupied slots whose tenant it is. -/
def State.holdings (s : State) (tenant : Nat) : Nat := s.ast.slots.countP (fun p => p.2.tenant == tenant)

/-- A tenant's quota (R46). -/
def State.quota (s : State) (tenant : Nat) : Nat := s.ast.quotas.toList.getD tenant 0

/-- Order of the firing schedule and the gate calendar: by time, then by entry sequence number (R65, R122). -/
def TimedEntry.before (a b : TimedEntry) : Bool :=
  decide (a.time < b.time) || (a.time == b.time && decide (a.seq < b.seq))

/-- Inserts an entry at the place that its time and number give it. -/
def insertTimed (x : TimedEntry) : List TimedEntry → List TimedEntry
  | [] => [x]
  | y :: rest => if x.before y then x :: y :: rest else y :: insertTimed x rest

/-- Takes a set of slots out of the firing schedule, the gate calendar and the listen lists; the entries that stay keep
their order (R67, R122, R123). -/
def State.unplace (s : State) (gone : Nat → Bool) : State :=
  { s with
    dsp := { s.dsp with schedule := s.dsp.schedule.filter (fun t => !gone t.slot) }
    lnu := { s.lnu with
      calendar := s.lnu.calendar.filter (fun t => !gone t.slot)
      listen := s.lnu.listen.map (fun l => l.filter (fun id => !gone id)) } }

/-- An action enters the firing schedule as ARMED with this due time and a new entry sequence number (R48, R66).
DESIGN CHOICE (log entry 12): after 2^64 − 1 the counter goes on at 0. -/
def State.enterSchedule (s : State) (id : Nat) (x : Slot) (due : Nat) : State :=
  let n := s.ast.seq
  { s with
    ast := { s.ast with slots := slotPut s.ast.slots id { x with state := .armed, due := due, seq := n }, seq := n + 1 }
    dsp := { s.dsp with schedule := insertTimed { slot := id, time := due, seq := n } s.dsp.schedule } }

/-- An action enters the gate calendar in this state with this key and a new entry sequence number (R48, R122). -/
def State.enterCalendar (s : State) (id : Nat) (x : Slot) (state : SlotState) (key : Nat) : State :=
  let n := s.ast.seq
  { s with
    ast := { s.ast with slots := slotPut s.ast.slots id { x with state := state, seq := n }, seq := n + 1 }
    lnu := { s.lnu with calendar := insertTimed { slot := id, time := key, seq := n } s.lnu.calendar } }

/-- Frees a slot (R44): it leaves the store, with its tag and its share of the holdings, and every place that held it. -/
def State.freeSlot (s : State) (id : Nat) : State :=
  let t := s.unplace (fun k => k == id)
  { t with ast := { t.ast with slots := slotDel t.ast.slots id } }

/-! ## Retirement and request completion (R167, R170) -/

/-- A DELETING ring with no request in flight and no occupied slot becomes ABSENT and SQ_RETIRED is posted (R170). -/
def State.retireIfDone (s : State) (r : Fin 16) : State :=
  if (s.sq r).state = .deleting ∧ (s.sq r).inFlight = false ∧ (s.slotsOfRing r).isEmpty then
    (s.setSq r SqContext.absent).postNotice .sqRetired r.val 0 0 (BitVec.ofNat 64 (s.sq r).tenant)
  else s

/-- Frees a slot at the end of its action and retires its ring if it was the last one (R44, R83, R170). -/
def State.endSlot (s : State) (id : Nat) (r : Fin 16) : State := (s.freeSlot id).retireIfDone r

/-- The fields that an owning block hands back for a request completion (R166). -/
structure Result where
  status : Status
  time : Nat
  tag : Word32 := 0
  aux32 : Nat := 0
  value : Word64 := 0
  opIndex : Nat := 0
  deriving DecidableEq, Repr

/-- The request completion of a ring: kind, source and head added by RQE (R167). -/
def Result.completion (x : Result) (r : Fin 16) (head : Nat) : Completion :=
  { kind := .request, status := x.status, source := r.val, opIndex := x.opIndex, aux16 := head, tag := x.tag,
    aux32 := x.aux32, time := x.time, value := x.value }

/-- Frees a request context and clears the in-flight field of its ring (R158). -/
def State.freeContext (s : State) (c : Fin 8) (r : Fin 16) : State :=
  (s.setCtx c .free).setSq r { s.sq r with inFlight := false }

/-- RQE completes a request (R167): its completion is handed to CU against its reservation, its context becomes FREE and
its ring's in-flight field is cleared. A DELETING ring may retire then (R170). -/
def State.completeRequest (s : State) (c : Fin 8) (r : Fin 16) (x : Result) : State :=
  (((s.writeRequestCompletion (s.sq r).cq (x.completion r (s.sq r).head)).freeContext c r)).retireIfDone r

/-- The ring, the entry and the progress of the request that a context in EFFECT holds. -/
def ReqContext.request? : ReqContext → Option (Fin 16 × Entry × Effect)
  | .effect r _ e p => some (r, e, p)
  | _ => none

/-- A context in EFFECT with its request come further. -/
def ReqContext.withProgress (p : Effect) : ReqContext → ReqContext
  | .effect r h e _ => .effect r h e p
  | x => x

/-- The request in a context comes further at its owning block. -/
def State.setProgress (s : State) (c : Fin 8) (p : Effect) : State := s.setCtx c ((s.ctx c).withProgress p)

/-- The request of this kind that waits in a context to take effect at its owning block: the ring it was taken from and
its entry. There is none while the part is not READY (R159, R172, R173). -/
def State.requestOf (s : State) (c : Fin 8) (k : ReqKind) : Option (Fin 16 × Entry) :=
  if s.isReady then
    match (s.ctx c).request? with
    | some (r, e, .waiting) => if reqKindOf (kindCode e) = some k then some (r, e) else none
    | _ => none
  else none

/-! ## The permission test (R139 to R142) -/

inductive Direction
  | read | write
  deriving DecidableEq, Repr

/-- The window's tenant set names the tenant and its rights include the direction (R140). -/
def Window.applies (w : Window) (tenant : Nat) (d : Direction) : Bool :=
  w.tenants.getLsbD tenant && (match d with
    | .read => w.read
    | .write => w.write)

/-- The window covers every byte of the access. -/
def Window.coversAll (w : Window) (a : Addr) (len : Nat) : Bool :=
  decide (w.base.toNat ≤ a.toNat ∧ a.toNat + len ≤ w.base.toNat + w.size)

/-- The window covers some byte of the access. -/
def Window.coversAny (w : Window) (a : Addr) (len : Nat) : Bool :=
  decide (a.toNat < w.base.toNat + w.size ∧ w.base.toNat < a.toNat + len)

/-- The valid windows of the table. -/
def validWindows (t : Vector (Option Window) 32) : List Window := t.toList.filterMap id

/-- The permission test (R141): some valid GRANT window that applies covers every byte, and no valid DENY window that
applies covers any byte. -/
def permitted (t : Vector (Option Window) 32) (tenant : Nat) (d : Direction) (a : Addr) (len : Nat) : Bool :=
  (validWindows t).any (fun w => w.kind == .grant && w.applies tenant d && w.coversAll a len)
    && !(validWindows t).any (fun w => w.kind == .deny && w.applies tenant d && w.coversAny a len)

/-- The permissions that an operation needs at arm time (R38, R39): ACCESS_DENIED, LINE_DENIED or nothing against it. -/
def State.opDenied (s : State) (tenant : Nat) : Op → Option Status
  | .write w a _ => if permitted s.wtb tenant .write a w.bytes then none else some .accessDenied
  | .read w a => if permitted s.wtb tenant .read a w.bytes then none else some .accessDenied
  | .maskedWrite w a _ _ =>
    if permitted s.wtb tenant .read a w.bytes && permitted s.wtb tenant .write a w.bytes then none
    else some .accessDenied
  | .poll w a _ _ _ => if permitted s.wtb tenant .read a w.bytes then none else some .accessDenied
  | .stamp a => if permitted s.wtb tenant .write a 8 then none else some .accessDenied
  | .line l _ => if (s.output l).owner = some tenant then none else some .lineDenied
  | .wait _ => none

/-- The first operation, from index `i`, that is not permitted, with its status (step 5 of R37). -/
def State.firstDenied (s : State) (tenant : Nat) : Nat → List Op → Option (Status × Nat)
  | _, [] => none
  | i, o :: rest =>
    match s.opDenied tenant o with
    | some st => some (st, i)
    | none => s.firstDenied tenant (i + 1) rest

/-- The operations of a list of records, or the index, from `i`, of the first record that is refused (step 4 of R37). -/
def readRecords : Nat → List Record → Except Nat (List Op)
  | _, [] => .ok []
  | i, r :: rest =>
    match opOf r with
    | none => .error i
    | some o =>
      match readRecords (i + 1) rest with
      | .error j => .error j
      | .ok os => .ok (o :: os)

/-- Steps 4 and 5 of R37 over the records of an action: its operations, or the refusal with its operation index. All
records are shape-checked before any permission is asked (R39). -/
def State.checkRecords (s : State) (tenant : Nat) (records : List Record) : Except (Status × Nat) (List Op) :=
  match readRecords 1 records with
  | .error i => .error (.badField, i)
  | .ok ops =>
    match s.firstDenied tenant 1 ops with
    | some x => .error x
    | none => .ok ops

end Sys2Proof.Machine
end

