-- ==== Sys2Proof/Machine/Engines.lean ====
section
/-! DEFINITION. What the steps of the dispatcher and the operation path share: staging, instance end, running an operation
list, and stopping an instance (chapters 4 and 5). -/

namespace Sys2Proof.Machine

open Sys2Proof

/-! ## Staging (R69 to R71) -/

/-- The lead as a time in ns (R69). -/
def State.leadNs (s : State) : Nat := 1000 * s.dsp.lead

/-- The due less the lead has been reached; a due below the lead always has (R69). -/
def State.dueLessLeadReached (s : State) (due : Nat) : Bool := decide (due ≤ s.now + s.leadNs)

/-- The lowest-numbered IDLE engine (R69). -/
def State.idleEngine? (s : State) : Option (Fin 4) :=
  [0, 1, 2, 3].find? (fun e => (s.engine e).state == .idle)

/-- An engine bound to a staged action (R68, R69). -/
def Engine.boundTo (slot due : Nat) : Engine := { Engine.released with state := .bound, slot := slot, due := due, fresh := true }

/-- Staging binds the head of the firing schedule to the lowest-numbered IDLE engine when R69 allows it. A head that AST
no longer finds ARMED is dropped and binds nothing (R43). -/
def State.stageHead (s : State) : State :=
  match s.dsp.schedule, s.idleEngine? with
  | h :: rest, some e =>
    if s.dueLessLeadReached h.time && !s.dsp.hold && s.live then
      let t := { s with dsp := { s.dsp with schedule := rest } }
      match s.slot? h.slot with
      | some x =>
        if x.state = .armed then (t.setSlot h.slot { x with state := .staged }).setEngine e (Engine.boundTo h.slot h.time)
        else t
      | none => t
    else s
  | _, _ => s

/-- Staging goes on, head after head, for at most `n` of them (R69). -/
def State.stageUpTo : Nat → State → State
  | 0, s => s
  | n + 1, s => State.stageUpTo n s.stageHead

/-- Heads are staged until the engines or the eligible actions run out (R69). -/
def State.stageAll (s : State) : State := State.stageUpTo s.dsp.schedule.length s

/-! ## Instance end (R78 to R87) -/

/-- The fire completion of an instance (R84, R85). -/
def fireCompletion (x : Slot) (eng : Engine) (status : Status) (index : Nat) (r : EndReport) : Completion :=
  { kind := .fire, status := status, source := x.ring.val, late := r.late, final := r.ends, cancelled := r.cancelled,
    opIndex := if status.isFault then index else 0, aux16 := r.reportedMissed, tag := x.tag, aux32 := r.ended,
    time := eng.start, value := x.capture }

/-- The slot of an action that continues, with the accounting of the instance that ended (R81, R82, R86). -/
def Slot.continued (x : Slot) (r : EndReport) : Slot :=
  { x with ended := r.ended, used := r.used, missed := r.missed, lateCarry := r.lateCarry }

/-- The instance of an engine ends with a status and a failing operation index (R78): the fire completion is posted or
withheld, the engine is released, the action is re-armed or its slot freed, and the released engine goes to the head of the
firing schedule when R69 allows. -/
def State.endInstance (s : State) (e : Fin 4) (status : Status) (index : Nat) : State :=
  match s.slot? (s.engine e).slot with
  | none => s.setEngine e Engine.released
  | some x =>
    let r := endReport x (s.engine e).due (s.engine e).late status s.now
    let t := if r.posted then s.postCompletion (s.sq x.ring).cq (fireCompletion x (s.engine e) status index r) else s
    let u := t.setEngine e Engine.released
    let v := if r.ends then u.endSlot (s.engine e).slot x.ring
      else u.enterSchedule (s.engine e).slot (x.continued r) r.nextDue
    v.stageHead

/-! ## Stopping an instance (R93, R94, R112, R113) -/

/-- An engine that FATAL has stopped keeps its slot; its operation path is IDLE (R68, R93, R96). -/
def Engine.haltedFrom (x : Engine) : Engine := { x with state := .halted, fresh := false, stop := none, path := OpPath.reset }

/-- What follows once nothing of a stopped instance is in flight: the end with OVERRUN for the budget (R76), the release of
engine and slot for teardown (R94), a HALTED engine for FATAL (R93). -/
def State.afterStop (s : State) (e : Fin 4) : Stop → State
  | .budget => s.endInstance e .overrun (s.engine e).operation
  | .teardown => (s.setEngine e Engine.released).freeSlot (s.engine e).slot
  | .fatal => s.setEngine e (s.engine e).haltedFrom

/-- A write that waits for the link is dropped (R112). -/
def State.dropOpWrite (s : State) (e : Fin 4) : State :=
  { s with hp := { s.hp with posted := s.hp.posted.filter (fun p => p != .op e) } }

/-- A stop reaches a RUNNING engine (R112): a read or a LINE request in flight is waited for, everything else stops at
once. -/
def State.stopRunning (s : State) (e : Fin 4) (k : Stop) : State :=
  match (s.engine e).path.phase with
  | .readWait => s.setEngine e { s.engine e with stop := some k }
  | .lineWait => s.setEngine e { s.engine e with stop := some k }
  | .writeWait => (s.dropOpWrite e).afterStop e k
  | .idle | .check | .writeCheck | .pollGap | .waiting => s.afterStop e k

/-- FATAL reaches an engine (R93). -/
def State.fatalEngine (s : State) (e : Fin 4) : State :=
  match (s.engine e).state with
  | .idle => s
  | .halted => s
  | .bound => s.setEngine e (s.engine e).haltedFrom
  | .running => s.stopRunning e .fatal

/-- Teardown reaches an engine (R94). -/
def State.teardownEngine (s : State) (e : Fin 4) : State :=
  match (s.engine e).state with
  | .idle => s
  | .halted => s.afterStop e .teardown
  | .bound => s.afterStop e .teardown
  | .running => s.stopRunning e .teardown

/-! ## Running an operation list (R74, R97 to R109) -/

/-- HP takes an engine's write now: at once while the bus master enable is clear (R199), else where the link takes it. -/
def State.takesOpWrite (s : State) : Bool := !s.hp.busMaster || s.linkOpen

/-- Issues a write of an engine, or has HP discard it while the bus master enable is clear (R199). DEDUCED (log entry
23): the access has been checked before. -/
def State.issueOpWrite (s : State) (e : Fin 4) (a : Addr) (w : Width) (d : Word64) : State :=
  if s.hp.busMaster then s.placePosted (.opWrite e a w d) else s

/-- The operation path of an engine at the operation of this index. -/
def State.setPath (s : State) (e : Fin 4) (index : Nat) (p : OpPath) : State :=
  s.setEngine e { s.engine e with operation := index, path := p }

/-- The operation waits for the link (R96, R100); `last` is the value that the read of a MASKED_WRITE has returned. -/
def State.waitForLink (s : State) (e : Fin 4) (index : Nat) (last : Word64) : State :=
  (s.setPath e index { OpPath.reset with phase := .writeWait, lastValue := last }).queuePosted (.op e)

/-- A read is issued; its timer starts (R101, R103). -/
def State.issueRead (s : State) (e : Fin 4) (index : Nat) (a : Addr) (w : Width) : State :=
  (s.setPath e index { OpPath.reset with phase := .readWait, onLink := s.hp.busMaster }).placeIfMaster (.opRead e a w)

/-- Carries out the operations of a list, from the operation of index `i`, each begun at once when the one before has
completed (R97), until one of them has to wait, one is refused, or the list is done. -/
def State.runOps (e : Fin 4) (tenant : Nat) : Nat → List Op → State → State
  | _, [], s => s.endInstance e .ok 0
  | i, op :: rest, s =>
    match op with
    | .write w a d =>
      if s.takesOpWrite then
        if permitted s.wtb tenant .write a w.bytes then State.runOps e tenant (i + 1) rest (s.issueOpWrite e a w d)
        else s.endInstance e .accessDenied i
      else s.waitForLink e i 0
    | .stamp a =>
      if s.takesOpWrite then
        if permitted s.wtb tenant .write a 8 then
          State.runOps e tenant (i + 1) rest (s.issueOpWrite e a .w64 (BitVec.ofNat 64 s.now))
        else s.endInstance e .accessDenied i
      else s.waitForLink e i 0
    | .read w a =>
      if permitted s.wtb tenant .read a w.bytes then s.issueRead e i a w else s.endInstance e .accessDenied i
    | .maskedWrite w a _ _ =>
      if permitted s.wtb tenant .read a w.bytes && permitted s.wtb tenant .write a w.bytes then s.issueRead e i a w
      else s.endInstance e .accessDenied i
    | .poll w a _ _ _ =>
      if permitted s.wtb tenant .read a w.bytes then s.issueRead e i a w else s.endInstance e .accessDenied i
    | .line _ _ => s.setPath e i { OpPath.reset with phase := .lineWait }
    | .wait _ => s.setPath e i { OpPath.reset with phase := .waiting }

/-- The next operation is begun, or the instance ends, once the operation of index `i` has completed (R97). -/
def State.continueAfter (s : State) (e : Fin 4) (x : Slot) (i : Nat) : State :=
  State.runOps e x.tenant (i + 1) (x.ops.drop i) s

/-- The capture value is replaced (R110). -/
def State.setCapture (s : State) (id : Nat) (v : Word64) : State :=
  match s.slot? id with
  | some x => s.setSlot id { x with capture := v }
  | none => s

/-- The slot and the operation in progress of a RUNNING engine whose operation path is in a given phase. -/
def State.opInPhase (s : State) (e : Fin 4) (p : Phase) : Option (Slot × Op) :=
  if (s.engine e).state = .running ∧ (s.engine e).path.phase = p then
    match s.slot? (s.engine e).slot with
    | some x => match x.ops[(s.engine e).operation - 1]? with
      | some o => some (x, o)
      | none => none
    | none => none
  else none

/-- The value of a read returns to an engine. In a stopped instance it sets the capture value, except in teardown where it
is discarded with the slot, and the stop is then complete (R76, R113). -/
def State.stoppedReturn (s : State) (e : Fin 4) (k : Stop) (v : Word64) : State :=
  match k with
  | .teardown => s.afterStop e .teardown
  | .budget => (s.setCapture (s.engine e).slot v).afterStop e .budget
  | .fatal => (s.setCapture (s.engine e).slot v).afterStop e .fatal

/-- A read of an engine fails (R101): BUS_ERROR, or the end of the stop that has reached the instance. -/
def State.failRead (s : State) (e : Fin 4) : State :=
  match (s.engine e).stop with
  | some k => s.afterStop e k
  | none => s.endInstance e .busError (s.engine e).operation

/-- The value that the write of a MASKED_WRITE writes (R34, R104). -/
def maskedValue (w : Width) (old data mask : Word64) : Word64 := w.fit ((old &&& ~~~mask) ||| (data &&& mask))

/-- The value read matches (R35, R105). -/
def pollMatches (v data mask : Word64) : Bool := (v &&& mask) == (data &&& mask)

end Sys2Proof.Machine
end

