-- ==== Sys2Proof/Machine/Firing.lean ====
section
/-! DEFINITION. The commands of the dispatcher and of the operation path: staging, starting and stopping instances, the step
event at DSP, what the bus brings back, and the dispatch parameters (chapters 4 and 5). -/

namespace Sys2Proof.Machine

open Sys2Proof

/-! ## Staging and starting -/

/-- STAGE (R69): the head of the firing schedule is bound to the lowest IDLE engine when its conditions hold. -/
def execStage (s : State) : Host.Outcome State Fault Refusal := .next s.stageHead

/-- The instance is late (R73): it starts after its due time plus the tolerance. -/
def isLate (start due tolerance : Nat) : Bool := decide (due + 1000 * tolerance < start)

/-- The engine once it has started: RUNNING, with the start sample, the budget in force and the lateness judgement (R72,
R73, R76). -/
def Engine.startedAt (x : Engine) (start budgetNs : Nat) (late : Bool) : Engine :=
  { x with state := .running, start := start, budget := budgetNs, runTime := 0, late := late, operation := 1,
           fresh := false, stop := none, path := OpPath.reset }

/-- The start of the bound instance (R72 to R75): the slot becomes FIRING with capture value 0, lateness is judged, and the
first operation is begun or the late instance ends. -/
def State.startInstance (s : State) (e : Fin 4) (x : Slot) : State :=
  let late := isLate s.now (s.engine e).due x.tolerance
  let t := (s.setSlot (s.engine e).slot { x with state := .firing, capture := 0 }).setEngine e
    ((s.engine e).startedAt s.now (1000000 * s.dsp.budget) late)
  if late then
    match x.latePolicy with
    | .fire => State.runOps e x.tenant 1 x.ops t
    | .skip => t.endInstance e .lateSkipped 0
    | .abort => t.endInstance e .lateAborted 0
  else State.runOps e x.tenant 1 x.ops t

/-- INSTANCE_START (R72): a BOUND engine starts at the first reference period after that of its staging at which the
timebase has reached the due time, outside FATAL and teardown. -/
def execInstanceStart (e : Fin 4) (s : State) : Host.Outcome State Fault Refusal :=
  .next (if (s.engine e).state = .bound ∧ (s.engine e).fresh = false ∧ (s.engine e).due ≤ s.now ∧ s.live = true then
    match s.slot? (s.engine e).slot with
    | some x => s.startInstance e x
    | none => s
  else s)

/-- BUDGET_EXPIRED (R76): the run time of an instance that has not ended or been stopped has reached its budget.
DESIGN CHOICE (log entries 7 and 8): a step that is due may be commanded later, one that is not due does nothing. -/
def execBudgetExpired (e : Fin 4) (s : State) : Host.Outcome State Fault Refusal :=
  .next (if (s.engine e).state = .running ∧ (s.engine e).stop = none ∧ (s.engine e).budget ≤ (s.engine e).runTime
      ∧ s.live = true then s.stopRunning e .budget else s)

/-! ## The step event at DSP -/

/-- A BOUND engine whose due less the lead lies ahead of the timebase is unbound (R91): its action returns to the firing
schedule as ARMED, with its due and its old number. DESIGN CHOICE (log entry 36): the direction of the step is not looked at,
so that a forward step too unbinds an engine whose due less the lead still lies ahead because SET DISPATCH has shortened the
lead since (R71); R91 also says that a forward step unbinds no engine. -/
def State.unbind (s : State) (e : Fin 4) : State :=
  if (s.engine e).state = .bound ∧ s.dueLessLeadReached (s.engine e).due = false then
    match s.slot? (s.engine e).slot with
    | some x =>
      let t := (s.setSlot (s.engine e).slot { x with state := .armed }).setEngine e Engine.released
      { t with dsp := { t.dsp with
          schedule := insertTimed { slot := (s.engine e).slot, time := (s.engine e).due, seq := x.seq } t.dsp.schedule } }
    | none => s.setEngine e Engine.released
  else s

/-- DSP's reaction to a step event (R91): every BOUND engine is examined, and heads whose due less the lead has been reached
are staged. -/
def State.dspReact (s : State) : State := ((((s.unbind 0).unbind 1).unbind 2).unbind 3).stageAll

/-- DSP_STEP_EVENT (R91): DSP takes the oldest step event delivered to it. It does not act on it in FATAL or teardown
(R92). -/
def execDspStepEvent (s : State) : Host.Outcome State Fault Refusal :=
  .next (match s.dsp.steps with
    | [] => s
    | _ :: rest =>
      let t := { s with dsp := { s.dsp with steps := rest } }
      if s.live then t.dspReact else t)

/-! ## What comes back to an engine -/

/-- READ_DATA_RETURNED (R103): the value becomes the capture value and the READ completes. -/
def execReadDataReturned (e : Fin 4) (data : Word64) (s : State) : Host.Outcome State Fault Refusal :=
  .next (match s.opInPhase e .readWait with
    | some (x, .read w _) =>
      if (s.engine e).path.onLink then
        match (s.engine e).stop with
        | some k => s.stoppedReturn e k (w.fit data)
        | none =>
          (s.setCapture (s.engine e).slot (w.fit data)).continueAfter e x (s.engine e).operation
      else s
    | _ => s)

/-- The second half of a MASKED_WRITE (R104): the write is checked again and issued, refused, or left waiting for the
link. -/
def State.maskedWriteBack (s : State) (e : Fin 4) (x : Slot) (w : Width) (a : Addr) (old data mask : Word64) : State :=
  if s.takesOpWrite then
    if permitted s.wtb x.tenant .write a w.bytes then
      (s.issueOpWrite e a w (maskedValue w old data mask)).continueAfter e x (s.engine e).operation
    else s.endInstance e .accessDenied (s.engine e).operation
  else s.waitForLink e (s.engine e).operation old

/-- MASKED_WRITE_READ_RETURNED (R104): the old value becomes the capture value and the write follows. -/
def execMaskedWriteReadReturned (e : Fin 4) (data : Word64) (s : State) : Host.Outcome State Fault Refusal :=
  .next (match s.opInPhase e .readWait with
    | some (x, .maskedWrite w a d m) =>
      if (s.engine e).path.onLink then
        match (s.engine e).stop with
        | some k => s.stoppedReturn e k (w.fit data)
        | none => (s.setCapture (s.engine e).slot (w.fit data)).maskedWriteBack e x w a (w.fit data) d m
      else s
    | _ => s)

/-- POLL_READ_RETURNED (R105, R106): the value becomes the last value and the capture value. A match completes the POLL.
Otherwise it expires if the limit has passed, and else enters POLL_GAP. -/
def execPollReadReturned (e : Fin 4) (data : Word64) (s : State) : Host.Outcome State Fault Refusal :=
  .next (match s.opInPhase e .readWait with
    | some (x, .poll w _ d m limit) =>
      if (s.engine e).path.onLink then
        match (s.engine e).stop with
        | some k => s.stoppedReturn e k (w.fit data)
        | none =>
          let t := s.setCapture (s.engine e).slot (w.fit data)
          if pollMatches (w.fit data) d m then t.continueAfter e x (s.engine e).operation
          else if limit ≤ (s.engine e).path.pollLimitTimer then t.endInstance e .pollExpired (s.engine e).operation
          else t.setPath e (s.engine e).operation
            { (s.engine e).path with phase := .pollGap, lastValue := w.fit data, readTimer := 0 }
      else s
    | _ => s)

/-- READ_FAILED (R101): the read in flight is answered with an error completion or poisoned data, or at once by HP while the
bus master enable is clear (R199). -/
def execReadFailed (e : Fin 4) (s : State) : Host.Outcome State Fault Refusal :=
  .next (match s.opInPhase e .readWait with
    | some _ => s.failRead e
    | none => s)

/-- READ_TIMEOUT (R101): no data has returned when the read timer reaches 100 µs. -/
def execReadTimeout (e : Fin 4) (s : State) : Host.Outcome State Fault Refusal :=
  .next (match s.opInPhase e .readWait with
    | some _ =>
      if (s.engine e).path.onLink = true ∧ Config.readTimeoutNs ≤ (s.engine e).path.readTimer then
        (s.noteStale (.operation e)).failRead e
      else s
    | none => s)

/-- The write of an operation that is accepted by the link: its address, width and data, a STAMP taking its sample now
(R100, R107). -/
def State.acceptedWrite (s : State) (e : Fin 4) : Op → Option (Addr × Width × Word64)
  | .write w a d => some (a, w, d)
  | .stamp a => some (a, .w64, BitVec.ofNat 64 s.now)
  | .maskedWrite w a d m => some (a, w, maskedValue w (s.engine e).path.lastValue d m)
  | _ => none

/-- HP places an accepted engine write on the link, or discards it while the bus master enable is clear (R199). -/
def State.acceptOpWrite (s : State) (e : Fin 4) (a : Addr) (w : Width) (d : Word64) : State :=
  s.placeIfMaster (.opWrite e a w d)

/-- The first bus transaction of the operation is a posted write: its placing on the link issues the operation (R97). A
MASKED_WRITE has been issued with its read. -/
def Op.issuedByWrite : Op → Bool
  | .write _ _ _ | .stamp _ => true
  | .read _ _ | .maskedWrite _ _ _ _ | .poll _ _ _ _ _ | .line _ _ | .wait _ => false

/-- The law of R72 holds the waiting write of an engine back: it would issue the first operation of the instance, and a
backward step has brought the timebase below the due time since the start. While the bus master enable is clear HP issues
nothing (R199), and holds nothing back. -/
def State.heldForDue (s : State) (e : Fin 4) (o : Op) : Bool :=
  s.hp.busMaster && (s.engine e).operation == 1 && o.issuedByWrite && decide (s.now < (s.engine e).due)

/-- WRITE_ACCEPTED_BY_LINK (R100): the write at the front of those waiting is this engine's. It is checked now, stamped
where it is a STAMP, and issued, or refused with ACCESS_DENIED (R96, R98, R107). A write that would issue the first operation of
its instance before the due time is not issued (R72). DESIGN CHOICE (log entry 35): it goes on waiting, at the front, until
the timebase is at or past the due time again or a stop reaches it. DESIGN CHOICE (log entry 41): a write that was waiting
when the bus master enable was cleared is discarded here, once it stands at the front, if the enable is still clear then. -/
def execWriteAcceptedByLink (e : Fin 4) (s : State) : Host.Outcome State Fault Refusal :=
  .next (match s.opInPhase e .writeWait, s.hp.posted with
    | some (x, o), .op f :: rest =>
      if f = e ∧ s.heldForDue e o = false then
        let t := { s with hp := { s.hp with posted := rest } }
        match s.acceptedWrite e o with
        | some (a, w, d) =>
          if permitted s.wtb x.tenant .write a w.bytes then
            (t.acceptOpWrite e a w d).continueAfter e x (s.engine e).operation
          else t.endInstance e .accessDenied (s.engine e).operation
        | none => s
      else s
    | _, _ => s)

/-- POLL_SPACING_ELAPSED (R105): in POLL_GAP, once 1 µs has elapsed since the last read was issued and the limit has not
been reached, the next read is checked and issued; the limit timer runs on. -/
def execPollSpacingElapsed (e : Fin 4) (s : State) : Host.Outcome State Fault Refusal :=
  .next (match s.opInPhase e .pollGap with
    | some (x, .poll w a _ _ limit) =>
      if Config.pollSpacingNs ≤ (s.engine e).path.pollSpacingTimer ∧ (s.engine e).path.pollLimitTimer < limit then
        if permitted s.wtb x.tenant .read a w.bytes then
          (s.setPath e (s.engine e).operation
            { (s.engine e).path with phase := .readWait, readTimer := 0, pollSpacingTimer := 0,
                                     onLink := s.hp.busMaster }).placeIfMaster (.opRead e a w)
        else s.endInstance e .accessDenied (s.engine e).operation
      else s
    | _ => s)

/-- POLL_LIMIT_EXPIRED (R106): in POLL_GAP the limit timer has reached the limit. -/
def execPollLimitExpired (e : Fin 4) (s : State) : Host.Outcome State Fault Refusal :=
  .next (match s.opInPhase e .pollGap with
    | some (_, .poll _ _ _ _ limit) =>
      if limit ≤ (s.engine e).path.pollLimitTimer then s.endInstance e .pollExpired (s.engine e).operation else s
    | _ => s)

/-- WAIT_ELAPSED (R109): the wait timer has reached the length, and the next operation is begun or the instance ends. -/
def execWaitElapsed (e : Fin 4) (s : State) : Host.Outcome State Fault Refusal :=
  .next (match s.opInPhase e .waiting with
    | some (x, .wait length) =>
      if length ≤ (s.engine e).path.waitTimer then s.continueAfter e x (s.engine e).operation else s
    | _ => s)

/-- LNU grants a LINE request (R134): neither FATAL nor teardown, and the line's owner is the request's tenant. -/
def State.lineGranted (s : State) (tenant : Nat) (l : Fin 4) : Bool :=
  s.live && (s.output l).owner == some tenant

/-- LNU sets the level of a line. -/
def State.setLevel (s : State) (l : Fin 4) (v : Level) : State := s.setOutput l { s.output l with level := v }

/-- LINE_REQUEST (R99, R134): LNU checks the owner and sets the level in one step, or answers LINE_DENIED; the answer
completes or faults the LINE, or ends the stop that has reached the instance. -/
def execLineRequest (e : Fin 4) (s : State) : Host.Outcome State Fault Refusal :=
  .next (match s.opInPhase e .lineWait with
    | some (x, .line l v) =>
      let granted := s.lineGranted x.tenant l
      let t := if granted then s.setLevel l v else s
      match (s.engine e).stop with
      | some k => t.afterStop e k
      | none =>
        if granted then t.continueAfter e x (s.engine e).operation
        else t.endInstance e .lineDenied (s.engine e).operation
    | _ => s)

/-! ## Hold and dispatch parameters (R88 to R90) -/

/-- The number of engines that are BOUND or RUNNING (R88). -/
def State.busyEngines (s : State) : Nat :=
  s.dsp.engines.toList.countP (fun x => x.state == .bound || x.state == .running)

/-- The fields of the HOLD and RESUME DISPATCH completions (R88, R89). -/
def State.holdResult (s : State) : Result :=
  { status := .ok, time := s.now, aux32 := if s.dsp.hold then 1 else 0, value := BitVec.ofNat 64 s.busyEngines }

/-- HOLD DISPATCH (R88). -/
def execHoldDispatch (c : Fin 8) (s : State) : Host.Outcome State Fault Refusal :=
  .next (match s.requestOf c .holdDispatch with
    | some (r, _) => ({ s with dsp := { s.dsp with hold := true } }).completeRequest c r s.holdResult
    | none => s)

/-- RESUME DISPATCH (R89): where dispatch was held, staging resumes at once; where it was not, nothing but the completion
follows. DEDUCED (log entry 19): the completion comes first. -/
def execResumeDispatch (c : Fin 8) (s : State) : Host.Outcome State Fault Refusal :=
  .next (match s.requestOf c .resumeDispatch with
    | some (r, _) =>
      let t := ({ s with dsp := { s.dsp with hold := false } }).completeRequest c r s.holdResult
      if s.dsp.hold then t.stageAll else t
    | none => s)

/-- SET DISPATCH (R90): the lead and the budget are replaced together, and the new lead applies to staging at once
(R71). DEDUCED (log entry 19): the completion comes first. -/
def execSetDispatch (c : Fin 8) (s : State) : Host.Outcome State Fault Refusal :=
  .next (match s.requestOf c .setDispatch with
    | some (r, e) =>
      let lead := bytesOf e 8 2
      let budget := bytesOf e 10 2
      if 2 ≤ lead ∧ lead ≤ 1000 ∧ 1 ≤ budget ∧ budget ≤ 1000 then
        (({ s with dsp := { s.dsp with lead := lead, budget := budget } }).completeRequest c r
          { status := .ok, time := s.now, value := packValue lead 16 budget }).stageAll
      else
        s.completeRequest c r { status := .badField, time := s.now, value := packValue s.dsp.lead 16 s.dsp.budget }
    | none => s)

end Sys2Proof.Machine
end

