-- ==== Sys2Proof/Machine/Completions.lean ====
section
/-! DEFINITION. The completion unit: RELEASE, the writes that wait for the link, the hold timer, failed writes with the entry
to FATAL, and the completion ring commands (chapter 9, R205). -/

namespace Sys2Proof.Machine

open Sys2Proof

/-! ## RELEASE (R185, R186, R189) -/

/-- The entries that a consumer index releases (R185). -/
def CqContext.releases (x : CqContext) (index : Nat) : Nat := (index + x.size - x.consumer) % x.size

/-- A RELEASE is applied to the ring it names (R185). -/
def State.releaseAccepted (s : State) (d : Word64) : Bool :=
  let x := s.cq (wordRing d)
  !wordReserved d && x.state != .absent && decide (wordIndex d < x.size)
    && decide (x.releases (wordIndex d) ≤ x.unreleased)

/-- The BAD_RELEASE notice (R186). An ABSENT ring reports unreleased 0. -/
def State.badRelease (s : State) (d : Word64) : State :=
  let x := s.cq (wordRing d)
  s.postNotice .badRelease (wordRing d).val (if x.state = .absent then 0 else x.unreleased) x.state.code
    (BitVec.ofNat 64 (wordIndex d))

/-- The ring once entries have been released (R185). -/
def CqContext.released (x : CqContext) (index : Nat) : CqContext :=
  { x with consumer := index, unreleased := x.unreleased - x.releases index }

/-- The notification re-armed by a release (R189). -/
def CqContext.rearmed (x : CqContext) : CqContext :=
  { x with notify := .armed, pending := x.unreleased, holdTimer := if 0 < x.unreleased then some 0 else none }

/-- The release on the ring (R185, R189): on an ACTIVE ring the notification is re-armed, one that is due is sent, and
the outbox drains. DEDUCED (log entry 18): in this order. -/
def State.applyRelease (s : State) (q : Fin 16) (index : Nat) : State :=
  if (s.cq q).state = .active then
    ((s.setCq q ((s.cq q).released index).rearmed).notifyIfDue q).drain q
  else s.setCq q ((s.cq q).released index)

/-- A write to RELEASE (R185): while the part is not READY it is ignored with no notice. -/
def State.writeRelease (s : State) (d : Word64) : State :=
  if s.isReady then
    if s.releaseAccepted d then s.applyRelease (wordRing d) (wordIndex d) else s.badRelease d
  else s

/-- RELEASE: a 64-bit write, or a 32-bit write of the low half with the high half taken as 0 (R198). -/
def execRelease (d : Word64) (s : State) : Host.Outcome State Fault Refusal := .next (s.writeRelease d)

/-! ## Writes that wait for the link, and the hold timer (R177, R187) -/

/-- CU_WRITE_ACCEPTED_BY_LINK (R177): the CU write at the front of those waiting is issued. HP issues nothing while the bus
master enable is clear, and a write that it has refused is not issued (R199). -/
def execCuWriteAcceptedByLink (s : State) : Host.Outcome State Fault Refusal :=
  .next (match s.hp.posted with
    | .cu w false :: rest =>
      if s.hp.busMaster then ({ s with hp := { s.hp with posted := rest } }).place w.txn else s
    | _ => s)

/-- HOLD_TIMER_EXPIRED (R187): a notification of this ring has become due by its hold timer. -/
def execHoldTimerExpired (q : Fin 16) (s : State) : Host.Outcome State Fault Refusal :=
  .next (if s.isReady && (s.cq q).holdReached then s.notifyIfDue q else s)

/-! ## FATAL (R205) -/

/-- LNU drives every output line to its safe level (R135, R136). -/
def State.linesSafe (s : State) : State :=
  { s with lnu := { s.lnu with outputs := s.lnu.outputs.map (fun x => { x with level := x.safe }) } }

/-- The part enters FATAL (R205): HP sets FATAL and clears READY, every engine stops, the output lines go to their safe
levels, and no waiting write is issued (R93, R135, R191). DESIGN CHOICE (log entry 33): of an identity record that waits, no
part has been placed on the link (R207). -/
def State.enterFatal (s : State) : State :=
  let t := ((((s.fatalEngine 0).fatalEngine 1).fatalEngine 2).fatalEngine 3).linesSafe
  { t with hp := { t.hp with condition := .fatal, fatalBit := true, posted := [] } }

/-! ## Failed writes (R190, R191) -/

/-- The cause code of CQ_FAULTED (section 11.5.4). -/
def CuWrite.cause : CuWrite → Nat
  | .entry _ _ _ => 1
  | .notify _ _ _ => 2

/-- A waiting write that belongs to a completion ring. -/
def Posted.isOf (q : Fin 16) : Posted → Bool
  | .cu w _ => w.ring == q
  | _ => false

/-- A waiting entry write of a completion ring. -/
def Posted.isEntryOf (q : Fin 16) : Posted → Bool
  | .cu (.entry r _ _) _ => r == q
  | _ => false

/-- The entries that a failed write loses: its own, if it is an entry, and those waiting behind it (R190). DEDUCED
(log entry 16): a notification write is not an entry and counts nothing. -/
def State.entriesLost (s : State) (w : CuWrite) : Nat :=
  (match w with
    | .entry _ _ _ => 1
    | .notify _ _ _ => 0) + s.hp.posted.countP (Posted.isEntryOf w.ring)

/-- The ring once a write to it has failed: FAULTED, its outbox discarded, the losses counted (R190). DESIGN CHOICE (log entry
42): an entry that carried a LOST report counts 1 like any other, and the count that it carried, cleared at its hand-over
(R183), does not come back. -/
def CqContext.faultedBy (x : CqContext) (entries : Nat) : CqContext :=
  { x with state := .faulted, outbox := [], lost := raise x.lost (entries + x.outbox.length) }

/-- A failed write makes a tenant ring FAULTED (R190): writes to it that wait behind are not issued, and CQ_FAULTED is
posted. -/
def State.faultRing (s : State) (w : CuWrite) : State :=
  let x := s.cq w.ring
  let y := x.faultedBy (s.entriesLost w)
  let t := s.setCq w.ring y
  ({ t with hp := { t.hp with posted := t.hp.posted.filter (fun p => !p.isOf w.ring) } }).postNotice .cqFaulted
    w.ring.val x.outbox.length w.cause (BitVec.ofNat 64 y.lost)

/-- What follows a failed CU write that has left the queue (R190, R191, R204): FATAL for ring 0 while READY, a FAULTED
tenant ring, nothing in teardown or where the ring is no longer ACTIVE. DEDUCED (log entry 17). -/
def State.cuWriteFails (s : State) (w : CuWrite) : State :=
  if s.isReady then
    if w.ring = 0 then s.enterFatal
    else if (s.cq w.ring).state = .active then s.faultRing w
    else s
  else s

/-- COMPLETION_WRITE_FAILED (R190, R199): HP refuses the CU write at the front of those waiting, the bus master enable being
clear now or when the write was handed over. -/
def execCompletionWriteFailed (s : State) : Host.Outcome State Fault Refusal :=
  .next (match s.hp.posted with
    | .cu w refused :: rest =>
      if refused || !s.hp.busMaster then ({ s with hp := { s.hp with posted := rest } }).cuWriteFails w else s
    | _ => s)

/-! ## The completion ring commands (R192 to R194) -/

/-- The state code of a ring number, 0 outside 0 … 15 (R192). -/
def State.cqCode (s : State) (n : Option (Fin 16)) : Nat :=
  match n with
  | some q => (s.cq q).state.code
  | none => 0

/-- A ring that is made ACTIVE (R192, R196, R213): position 0, lap 1, everything else empty. -/
def CqContext.created (base : Addr) (size : Nat) (f : NotifyFields) : CqContext :=
  { state := .active, base := base, size := size, produced := 0, lap := true, consumer := 0, unreleased := 0, owed := 0,
    outbox := [], lost := 0, notifyAddr := f.addr, notifyValue := f.value, threshold := f.threshold, hold := f.hold,
    notify := .armed, pending := 0, holdTimer := none }

/-- The checks of R192 in their order, for a ring number below 16: the refusal, or the new context. -/
def State.newCq (s : State) (q : Fin 16) (e : Entry) : Except Status CqContext :=
  let base : Addr := e.extractLsb' 64 64
  let size := bytesOf e 16 2
  if q = 0 then .error .noRing
  else if (s.cq q).state ≠ .absent then .error .alreadyExists
  else if baseOk base = true ∧ ringSizeOk size = true ∧ (notifyFieldsOf e).ok = true then
    .ok (CqContext.created base size (notifyFieldsOf e))
  else .error .badField

/-- CREATE COMPLETION RING (R192). -/
def execCreateCompletionRing (c : Fin 8) (s : State) : Host.Outcome State Fault Refusal :=
  .next (match s.requestOf c .createCq with
    | some (r, e) =>
      match finOf 16 (bytesOf e 1 1) with
      | none => s.completeRequest c r { status := .noRing, time := s.now }
      | some q =>
        match s.newCq q e with
        | .error st => s.completeRequest c r { status := st, time := s.now, aux32 := (s.cq q).state.code }
        | .ok x =>
          (s.setCq q x).completeRequest c r
            { status := .ok, time := s.now, aux32 := (s.cq q).state.code, value := BitVec.ofNat 64 x.size }
    | none => s)

/-- The ring with new notification settings; the notification state, pending and the hold timer stay (R193). -/
def CqContext.tuned (x : CqContext) (f : NotifyFields) : CqContext :=
  { x with notifyAddr := f.addr, notifyValue := f.value, threshold := f.threshold, hold := f.hold }

/-- The threshold and the hold in force, as the value field carries them (R193, R211). -/
def CqContext.tuneValue (x : CqContext) : Word64 := packValue x.hold 16 x.threshold

/-- TUNE COMPLETION RING (R193): a notification that is due under the new values is sent in the same step, after the request
completion where the ring is ring 0. -/
def execTuneCompletionRing (c : Fin 8) (s : State) : Host.Outcome State Fault Refusal :=
  .next (match s.requestOf c .tuneCq with
    | some (r, e) =>
      match finOf 16 (bytesOf e 1 1) with
      | none => s.completeRequest c r { status := .noRing, time := s.now }
      | some q =>
        match (s.cq q).state with
        | .absent => s.completeRequest c r { status := .noRing, time := s.now }
        | .faulted =>
          s.completeRequest c r
            { status := .wrongState, time := s.now, aux32 := CqState.faulted.code, value := (s.cq q).tuneValue }
        | .active =>
          if (notifyFieldsOf e).ok then
            ((s.setCq q ((s.cq q).tuned (notifyFieldsOf e))).completeRequest c r
              { status := .ok, time := s.now, aux32 := CqState.active.code,
                value := ((s.cq q).tuned (notifyFieldsOf e)).tuneValue }).notifyIfDue q
          else
            s.completeRequest c r
              { status := .badField, time := s.now, aux32 := CqState.active.code, value := (s.cq q).tuneValue }
    | none => s)

/-- A submission ring that is ACTIVE, FAULTED or DELETING is bound to the ring, or an input line reports to it (R194). -/
def State.cqInUse (s : State) (q : Fin 16) : Bool :=
  s.rqe.sqs.toList.any (fun x => x.state != .absent && x.cq == q)
    || s.lnu.inputs.toList.any (fun x => x.reportRing == some q)

/-- The checks of R194 in their order. -/
def State.deleteCqRefusal (s : State) (number : Nat) : Option Status :=
  if number = 0 then some .notPermitted
  else match finOf 16 number with
    | none => some .noRing
    | some q =>
      if (s.cq q).state = .absent then some .noRing
      else if s.cqInUse q then some .inUse
      else none

/-- DELETE COMPLETION RING (R194). -/
def execDeleteCompletionRing (c : Fin 8) (s : State) : Host.Outcome State Fault Refusal :=
  .next (match s.requestOf c .deleteCq with
    | some (r, e) =>
      match s.deleteCqRefusal (bytesOf e 1 1), finOf 16 (bytesOf e 1 1) with
      | none, some q =>
        (s.setCq q CqContext.absent).completeRequest c r
          { status := .ok, time := s.now, aux32 := (s.cq q).state.code,
            value := packValue (s.cq q).outbox.length 16 (s.cq q).lost }
      | some st, n => s.completeRequest c r { status := st, time := s.now, aux32 := s.cqCode n }
      | none, none => s.completeRequest c r { status := .noRing, time := s.now }
    | none => s)

end Sys2Proof.Machine
end

