-- ==== Sys2Proof/Machine/Store.lean ====
section
/-! DEFINITION. The requests that take effect at the action store: ARM with its list fetch, CANCEL, CANCEL ALL, AMEND, QUERY
and SET TENANT LIMITS, and the sweep of a ring's slots that CANCEL ALL and the deletion of a submission ring share (chapters
2 and 3). -/

namespace Sys2Proof.Machine

open Sys2Proof

/-! ## ARM (R49 to R53) -/

/-- What AST decides about an ARM: the refusal with its operation index, or the slot to allocate. -/
inductive ArmVerdict
  | refuse (status : Status) (index : Nat)
  | accept (slot : Slot)
  deriving DecidableEq, Repr

/-- The gate part of an action whose open time is the first due (R31, R41). -/
def gateOf (openTime : Nat) (g : GateParams) : Gate :=
  { line := g.line, edge := g.edge, delay := g.delay, closePolicy := g.closePolicy, openTime := openTime,
    closeTime := openTime + g.listen }

/-- The state that an accepted ARM enters: PENDING with a host list, else AWAITING with a gate and ARMED without (R50). -/
def armState (opCount : Nat) (gate : Option GateParams) : SlotState :=
  if 3 ≤ opCount then .pending else if gate.isSome then .awaiting else .armed

/-- The slot of an accepted ARM (R41). DESIGN CHOICE (log entry 26): number 0 until the slot is placed. -/
def newSlot (f : ArmFields) (p : ArmParams) (ring : Fin 16) (tenant due : Nat) (ops : List Op) : Slot :=
  { state := armState f.opCount p.gate, ring := ring, tenant := tenant, tag := f.tag, period := f.period,
    count := f.count, tolerance := f.tolerance, latePolicy := p.latePolicy, faultPolicy := p.faultPolicy,
    completionMode := p.completionMode, gate := p.gate.map (gateOf due), ops := ops, due := due, ended := 0,
    missed := 0, capture := 0, endRequested := false, used := 0, lateCarry := false, seq := 0 }

/-- Step b of R49 from step 3 of R37 on: the first due with the gate's sums, and for an inline action its operations. -/
def State.armTimes (s : State) (tenant : Nat) (f : ArmFields) (p : ArmParams) : Except (Status × Nat) (Nat × List Op) :=
  match firstDue? p.mode f.dueValue f.period s.now s.dsp.lead with
  | none => .error (.badTime, 0)
  | some due =>
    if p.gate.all (gateTimesOk due) then
      match s.checkRecords tenant f.inlineRecords with
      | .error x => .error x
      | .ok ops => .ok (due, ops)
    else .error (.badTime, 0)

/-- The checks of R49 in their order, with the arm sample. -/
def State.armVerdict (s : State) (r : Fin 16) (e : Entry) : ArmVerdict :=
  let f := armFieldsOf e
  let tenant := (s.sq r).tenant
  if (s.sq r).state = .deleting then .refuse .wrongState 0
  else if s.tb.state = .unset then .refuse .timebaseUnset 0
  else match f.params? with
    | none => .refuse .badField 0
    | some p =>
      match s.armTimes tenant f p with
      | .error (st, i) => .refuse st i
      | .ok (due, ops) =>
        if (s.tagLookup r f.tag).isSome then .refuse .duplicateTag 0
        else if s.quota tenant ≤ s.holdings tenant then .refuse .quotaExceeded 0
        else if Config.slotCount ≤ s.ast.slots.length then .refuse .storeFull 0
        else .accept (newSlot f p r tenant due ops)

/-- An accepted action is placed by its gate (R50, R52): in the firing schedule with its first due, or in the gate calendar
as AWAITING with its open time. -/
def State.placeAction (s : State) (id : Nat) (x : Slot) : State :=
  match x.gate with
  | none => s.enterSchedule id x x.due
  | some g => s.enterCalendar id x .awaiting g.openTime

/-- The state code that the completion of a placed ARM reports (R53). -/
def placedCode (x : Slot) : Nat := if x.gate.isSome then SlotState.awaiting.code else SlotState.armed.code

/-- The completion fields of an ARM (R40, R53). -/
def armRefused (status : Status) (index : Nat) (tag : Word32) (sample : Nat) : Result :=
  { status := status, time := sample, tag := tag, opIndex := index }

def armAccepted (x : Slot) (sample : Nat) : Result :=
  { status := .ok, time := sample, tag := x.tag, aux32 := placedCode x, value := BitVec.ofNat 64 x.due }

/-- The list fetch of a PENDING slot begins (R51). DESIGN CHOICE (log entry 10): one transaction. -/
def State.beginListFetch (s : State) (c : Fin 8) (e : Entry) (id : Nat) (x : Slot) : State :=
  let f := armFieldsOf e
  ((s.setSlot id x).setProgress c (.listFetch id s.now 0 s.hp.busMaster)).placeIfMaster
    (.listRead c f.listAddr (32 * f.opCount))

/-- ARM (R49, R50). DESIGN CHOICE (log entry 30): the OK of an accepted ARM is handed to CU in the step that places the
action, so that it comes before any FIRE of it; R53 leaves the two unordered. -/
def execArm (c : Fin 8) (s : State) : Host.Outcome State Fault Refusal :=
  .next (match s.requestOf c .arm with
    | some (r, e) =>
      match s.armVerdict r e with
      | .refuse st i => s.completeRequest c r (armRefused st i (armFieldsOf e).tag s.now)
      | .accept x =>
        let id := lowestFree 0 s.ast.slots
        if x.state = .pending then s.beginListFetch c e id x
        else (s.placeAction id x).completeRequest c r (armAccepted x s.now)
    | none => s)

/-- A refusal after the list fetch frees the PENDING slot (R52). -/
def State.refuseFetched (s : State) (c : Fin 8) (r : Fin 16) (id : Nat) (x : Result) : State :=
  (s.freeSlot id).completeRequest c r x

/-- The end of a list fetch without a failure (R52): the ring, then the records are checked, and the action is placed with
the times computed from the arm sample. DESIGN CHOICE (log entry 30): its OK is handed to CU in the same step (R53). -/
def State.listArrived (s : State) (c : Fin 8) (r : Fin 16) (e : Entry) (id sample : Nat) (x : Slot) (bytes : ListBytes) :
    State :=
  let f := armFieldsOf e
  if (s.sq r).state = .deleting then s.refuseFetched c r id (armRefused .wrongState 0 f.tag sample)
  else match s.checkRecords x.tenant (listRecords bytes f.opCount) with
    | .error (st, i) => s.refuseFetched c r id (armRefused st i f.tag sample)
    | .ok ops => (s.placeAction id { x with ops := ops }).completeRequest c r (armAccepted x sample)

/-- The list fetch in progress in a context: ring, entry, slot number, arm sample, read timer, whether it is on the link,
and the PENDING slot. There is none while the part is not READY (R62, R173). -/
def State.fetchOf (s : State) (c : Fin 8) : Option (Fin 16 × Entry × Nat × Nat × Nat × Bool × Slot) :=
  if s.isReady then
    match s.ctx c with
    | .effect r _ e (.listFetch id sample timer onLink) =>
      match s.slot? id with
      | some x => some (r, e, id, sample, timer, onLink, x)
      | none => none
    | _ => none
  else none

/-- LIST_FETCH_DONE (R52). -/
def execListFetchDone (c : Fin 8) (result : ListResult) (s : State) : Host.Outcome State Fault Refusal :=
  .next (match s.fetchOf c with
    | some (r, e, id, sample, _, onLink, x) =>
      match result with
      | .failed => s.refuseFetched c r id (armRefused .listFetchError 0 (armFieldsOf e).tag sample)
      | .data bytes => if onLink then s.listArrived c r e id sample x bytes else s
    | none => s)

/-- LIST_FETCH_TIMEOUT (R51): no data within 100 µs of elapsed time makes the fetch fail. -/
def execListFetchTimeout (c : Fin 8) (s : State) : Host.Outcome State Fault Refusal :=
  .next (match s.fetchOf c with
    | some (r, e, id, sample, timer, onLink, _) =>
      if onLink = true ∧ Config.readTimeoutNs ≤ timer then
        (s.noteStale (.list c)).refuseFetched c r id
          (armRefused .listFetchError 0 (armFieldsOf e).tag sample)
      else s
    | none => s)

/-! ## CANCEL and CANCEL ALL (R54 to R57), deletion of a ring (R61) -/

/-- The key time of a slot: current due, open time while AWAITING, close time while LISTENING (R54, R60). -/
def Slot.keyTime (x : Slot) : Nat :=
  match x.state, x.gate with
  | .awaiting, some g => g.openTime
  | .listening, some g => g.closeTime
  | _, _ => x.due

/-- CANCEL and the deletion of a ring remove a slot in this state (R54, R61). -/
def SlotState.removable : SlotState → Bool
  | .armed | .awaiting | .listening => true
  | _ => false

/-- A slot in this state is bound to an engine. -/
def SlotState.onEngine : SlotState → Bool
  | .staged | .firing => true
  | _ => false

/-- A slot that a CANCEL finds on an engine and marks (R56). -/
def Slot.marks (x : Slot) : Bool := x.state.onEngine && x.recurring

/-- A slot of the ring that the sweep removes. -/
def sweepRemoves (r : Fin 16) (x : Slot) : Bool := x.ring == r && x.state.removable

/-- The slots after the sweep of a ring: those removed are gone, recurring ones on an engine are marked (R57, R61). -/
def sweepSlots (r : Fin 16) (l : List (Nat × Slot)) : List (Nat × Slot) :=
  (l.filter (fun p => !sweepRemoves r p.2)).map
    (fun p => if p.2.ring == r && p.2.marks then (p.1, { p.2 with endRequested := true }) else p)

/-- The sweep of a ring's slots, each by the state in which it is found: ARMED, AWAITING and LISTENING ones are removed from
their places and freed, recurring STAGED and FIRING ones are marked, the others are left (R57, R61). -/
def State.sweepRing (s : State) (r : Fin 16) : State :=
  let gone (id : Nat) : Bool := s.ast.slots.any (fun p => p.1 == id && sweepRemoves r p.2)
  let t := s.unplace gone
  { t with ast := { t.ast with slots := sweepSlots r s.ast.slots } }

/-- The slots of a ring that the sweep removes, marks, and leaves running as single actions. -/
def State.sweepRemoved (s : State) (r : Fin 16) : Nat := s.ast.slots.countP (fun p => sweepRemoves r p.2)

def State.sweepMarked (s : State) (r : Fin 16) : Nat := s.ast.slots.countP (fun p => p.2.ring == r && p.2.marks)

def State.sweepLeft (s : State) (r : Fin 16) : Nat :=
  s.ast.slots.countP (fun p => p.2.ring == r && p.2.state.onEngine && !p.2.recurring)

/-- What a CANCEL does with the slot it finds (R54): its status and value, and the store after it. -/
def State.cancelSlot (s : State) (id : Nat) (x : Slot) : Status × Nat × State :=
  if x.state.removable then (.ok, x.keyTime, s.freeSlot id)
  else if x.marks then (.cancelDeferred, x.due, s.setSlot id { x with endRequested := true })
  else (.tooLate, x.due, s)

/-- CANCEL (R54). DESIGN CHOICE (log entry 30): its answer comes before the FINAL of an instance that it finds running; R87
leaves the two unordered. -/
def execCancel (c : Fin 8) (s : State) : Host.Outcome State Fault Refusal :=
  .next (match s.requestOf c .cancel with
    | some (r, e) =>
      match s.tagLookup r (tagOf e) with
      | none => s.completeRequest c r { status := .unknownTag, time := s.now, tag := tagOf e }
      | some (id, x) =>
        (s.cancelSlot id x).2.2.completeRequest c r
          { status := (s.cancelSlot id x).1, time := s.now, tag := tagOf e, aux32 := x.state.code,
            value := BitVec.ofNat 64 (s.cancelSlot id x).2.1 }
    | none => s)

/-- CANCEL ALL (R57). -/
def execCancelAll (c : Fin 8) (s : State) : Host.Outcome State Fault Refusal :=
  .next (match s.requestOf c .cancelAll with
    | some (r, _) =>
      (s.sweepRing r).completeRequest c r
        { status := .ok, time := s.now, aux32 := s.sweepRemoved r,
          value := packValue (s.sweepMarked r) 32 (s.sweepLeft r) }
    | none => s)

/-! ## AMEND (R58, R59) -/

/-- What AST decides about an AMEND: the refusal with the state code of the slot found and the value field, or the slot
number, the amended slot and the new due. -/
inductive AmendVerdict
  | refuse (status : Status) (found : Nat) (value : Nat)
  | accept (id : Nat) (slot : Slot) (due : Nat)
  deriving DecidableEq, Repr

/-- The slot with the tolerance and the period that the AMEND carries (R59). -/
def amendedSlot (f : AmendFields) (x : Slot) : Slot :=
  { x with tolerance := if f.tolerancePresent == 1 then f.tolerance else x.tolerance
           period := if f.periodPresent == 1 then f.period else x.period }

/-- The checks of R58 from step 3 on, on the slot that the tag names. -/
def State.amendFound (s : State) (f : AmendFields) (id : Nat) (x : Slot) : AmendVerdict :=
  if x.state.onEngine then .refuse .tooLate x.state.code x.due
  else if x.state ≠ .armed then .refuse .wrongState x.state.code 0
  else if f.periodPresent = 1 ∧ x.recurring = false then .refuse .badField x.state.code 0
  else if Config.maxTime < f.newDue s.now then .refuse .badTime x.state.code 0
  else .accept id (amendedSlot f x) (f.newDue s.now)

/-- The checks of R58 in their order. DEDUCED (log entry 9): a refusal at step 1 comes before the lookup, so no state has
been found and aux32 is 0. -/
def State.amendVerdict (s : State) (r : Fin 16) (e : Entry) : AmendVerdict :=
  let f := amendFieldsOf e
  if f.shapeOk then
    match s.tagLookup r f.tag with
    | none => .refuse .unknownTag 0 0
    | some (id, x) => s.amendFound f id x
  else .refuse .badField 0 0

/-- The action is taken out of the firing schedule and inserted again (R59). -/
def State.reenter (s : State) (id : Nat) (x : Slot) (due : Nat) : State :=
  (s.unplace (fun k => k == id)).enterSchedule id x due

/-- AMEND (R58, R59). -/
def execAmend (c : Fin 8) (s : State) : Host.Outcome State Fault Refusal :=
  .next (match s.requestOf c .amend with
    | some (r, e) =>
      match s.amendVerdict r e with
      | .refuse st found v =>
        s.completeRequest c r
          { status := st, time := s.now, tag := tagOf e, aux32 := found, value := BitVec.ofNat 64 v }
      | .accept id x due =>
        (s.reenter id x due).completeRequest c r
          { status := .ok, time := s.now, tag := tagOf e, aux32 := SlotState.armed.code, value := BitVec.ofNat 64 due }
    | none => s)

/-! ## QUERY (R60) -/

/-- The completion fields of a QUERY (R60). -/
def State.queryResult (s : State) (r : Fin 16) (tag : Word32) : Result :=
  match s.tagLookup r tag with
  | none => { status := .unknownTag, time := s.now, tag := tag }
  | some (_, x) =>
    { status := .ok, time := s.now, tag := tag, aux32 := x.ended, value := BitVec.ofNat 64 x.keyTime,
      opIndex := x.state.code }

/-- QUERY (R60). -/
def execQuery (c : Fin 8) (s : State) : Host.Outcome State Fault Refusal :=
  .next (match s.requestOf c .query with
    | some (r, e) => s.completeRequest c r (s.queryResult r (tagOf e))
    | none => s)

/-! ## SET TENANT LIMITS (R47) -/

/-- SET TENANT LIMITS (R47). A tenant number outside 1 … 15 names no record, and its completion reports 0 (log entry 9). -/
def execSetTenantLimits (c : Fin 8) (s : State) : Host.Outcome State Fault Refusal :=
  .next (match s.requestOf c .setTenantLimits with
    | some (r, e) =>
      let quota := bytesOf e 8 2
      match finOf 16 (bytesOf e 1 1) with
      | none => s.completeRequest c r { status := .badField, time := s.now }
      | some t =>
        if t = 0 then s.completeRequest c r { status := .badField, time := s.now }
        else
          let old := s.ast.quotas[t]
          let held := s.holdings t.val
          if Config.maxQuota < quota then
            s.completeRequest c r
              { status := .badField, time := s.now, aux32 := held, value := BitVec.ofNat 64 old }
          else if quota < held then
            s.completeRequest c r { status := .inUse, time := s.now, aux32 := held, value := BitVec.ofNat 64 old }
          else
            ({ s with ast := { s.ast with quotas := s.ast.quotas.set t quota } }).completeRequest c r
              { status := .ok, time := s.now, aux32 := held, value := BitVec.ofNat 64 quota }
    | none => s)

end Sys2Proof.Machine
end

