-- ==== Sys2Proof/Machine/Requests.lean ====
section
/-! DEFINITION. The request engine: POST, the arbiter, taking an entry, a fetch that fails, and the commands that create and
delete a submission ring (chapter 8). -/

namespace Sys2Proof.Machine

open Sys2Proof

/-! ## POST (R155, R156) -/

/-- The BAD_POST notice (R156). -/
def State.badPost (s : State) (d : Word64) : State :=
  s.postNotice .badPost (wordRing d).val 0 (s.sq (wordRing d)).state.code (BitVec.ofNat 64 (wordIndex d))

/-- A POST is applied to the ring it names: an ACTIVE or FAULTED ring, an index below its size, no reserved bit (R155). -/
def State.postAccepted (s : State) (d : Word64) : Bool :=
  !wordReserved d && ((s.sq (wordRing d)).state == .active || (s.sq (wordRing d)).state == .faulted)
    && decide (wordIndex d < (s.sq (wordRing d)).size)

/-- The ring after an accepted POST: the tail at the index, and on ring 0 fetch hold clear (R154, R155). -/
def SqContext.posted (x : SqContext) (r : Fin 16) (index : Nat) : SqContext :=
  { x with tail := index, fetchHold := if r = 0 then false else x.fetchHold }

/-- A write to POST (R155): while the part is not READY it is ignored with no notice. -/
def State.writePost (s : State) (d : Word64) : State :=
  if s.isReady then
    if s.postAccepted d then s.setSq (wordRing d) ((s.sq (wordRing d)).posted (wordRing d) (wordIndex d))
    else s.badPost d
  else s

/-- POST: a 64-bit write, or a 32-bit write of the low half with the high half taken as 0 (R198). -/
def execPost (d : Word64) (s : State) : Host.Outcome State Fault Refusal := .next (s.writePost d)

/-! ## Eligibility and the arbiter (R159 to R162) -/

/-- The lowest FREE request context. DESIGN CHOICE (log entry 11): which one is taken cannot be seen. -/
def State.freeCtx? (s : State) : Option (Fin 8) :=
  [0, 1, 2, 3, 4, 5, 6, 7].find? (fun c => s.ctx c == .free)

/-- A submission ring is eligible for a grant (R159). -/
def State.eligible (s : State) (r : Fin 16) : Bool :=
  s.isReady && (s.sq r).state == .active && (r != 0 || !(s.sq r).fetchHold) && (s.sq r).tail != (s.sq r).head
    && !(s.sq r).inFlight && s.freeCtx?.isSome
    && (s.cq (s.sq r).cq).state == .active && decide (1 ≤ (s.cq (s.sq r).cq).room)

/-- The tenant rings in ring-number order. -/
def tenantRings : List (Fin 16) := [1, 2, 3, 4, 5, 6, 7, 8, 9, 10, 11, 12, 13, 14, 15]

/-- The tenant rings from the ring that the pointer names, wrapping from 15 to 1 (R160). -/
def scanFrom (pointer : Nat) : List (Fin 16) :=
  tenantRings.filter (fun r => decide (pointer ≤ r.val)) ++ tenantRings.filter (fun r => decide (r.val < pointer))

/-- The first tenant ring, from the pointer, that is eligible and has a credit (R160 step 2). -/
def State.pickTenant (s : State) : Option (Fin 16) :=
  (scanFrom s.rqe.pointer).find? (fun r => s.eligible r && decide (1 ≤ (s.sq r).credit))

/-- A new round: the credit of every tenant ring that is not ABSENT becomes its weight (R161). -/
def State.newRound (s : State) : State :=
  { s with rqe := { s.rqe with
      sqs := s.rqe.sqs.mapFinIdx (fun i x _ => if i ≠ 0 ∧ x.state ≠ .absent then { x with credit := x.weight } else x) } }

/-- The ring number after a ring, 16 wrapping to 1 (R160). -/
def nextPointer (r : Fin 16) : Nat := if r.val = 15 then 1 else r.val + 1

/-- The address of the entry at an index of a ring of 128-byte entries (R152). DESIGN CHOICE (log entry 39): a sum past
2^64 − 1 wraps to 64 bits. -/
def SqContext.entryAddr (x : SqContext) (i : Nat) : Addr := x.base + BitVec.ofNat 64 (128 * i)

/-- The grant (R162): the context enters FETCH, the ring is in flight, the owed count of its completion ring rises by 1, and
the entry at the head is read. -/
def State.grant (s : State) (r : Fin 16) (c : Fin 8) : State :=
  let x := s.sq r
  let t := (s.setSq r { x with inFlight := true }).setCtx c (.fetch r x.head 0 s.hp.busMaster)
  (t.setCq x.cq { t.cq x.cq with owed := (t.cq x.cq).owed + 1 }).placeIfMaster (.entryRead c (x.entryAddr x.head))

/-- The grant of a tenant ring takes one of its credits and moves the pointer past it (R160). -/
def State.grantTenant (s : State) (r : Fin 16) (c : Fin 8) : State :=
  let t := s.setSq r { s.sq r with credit := (s.sq r).credit - 1 }
  ({ t with rqe := { t.rqe with pointer := nextPointer r } }).grant r c

/-- The arbiter's decision (R160), with a FREE context: ring 0 if it is eligible, else the first tenant ring with a credit,
else the first after a new round, else none. -/
def State.arbitrate (s : State) (c : Fin 8) : State :=
  if s.eligible 0 then s.grant 0 c
  else match s.pickTenant with
    | some r => s.grantTenant r c
    | none =>
      if tenantRings.any s.eligible then
        match s.newRound.pickTenant with
        | some r => s.newRound.grantTenant r c
        | none => s.newRound
      else s

/-- REQUEST_GRANT (R160). -/
def execRequestGrant (s : State) : Host.Outcome State Fault Refusal :=
  .next (match s.freeCtx? with
    | some c => s.arbitrate c
    | none => s)

/-! ## Taking an entry (R163, R165) -/

/-- The fetch in a context while the part is READY: ring, head read, timer, whether the read is on the link (R172, R173). -/
def State.entryFetchOf (s : State) (c : Fin 8) : Option (Fin 16 × Nat × Nat × Bool) :=
  if s.isReady then
    match s.ctx c with
    | .fetch r h timer onLink => some (r, h, timer, onLink)
    | _ => none
  else none

/-- The head at the next position. -/
def SqContext.advanced (x : SqContext) : SqContext := { x with head := (x.head + 1) % x.size }

/-- The request is taken (R163): the head advances and the context enters EFFECT, where it keeps the head read and holds in
addition the entry (R158). -/
def State.take (s : State) (c : Fin 8) (r : Fin 16) (head : Nat) (e : Entry) : State :=
  (s.setSq r (s.sq r).advanced).setCtx c (.effect r head e .waiting)

/-- ENTRY_TAKEN (R163, R165): a refused entry is completed at once with the kind code read in aux32. -/
def execEntryTaken (c : Fin 8) (e : Entry) (s : State) : Host.Outcome State Fault Refusal :=
  .next (match s.entryFetchOf c with
    | some (r, h, _, onLink) =>
      if onLink then
        match entryRefusal r e with
        | none => s.take c r h e
        | some st => (s.take c r h e).completeRequest c r { status := st, time := s.now, aux32 := kindCode e }
      else s
    | none => s)

/-! ## A fetch that fails (R164) -/

/-- The ring after a failed fetch: ring 0 holds fetching, an ACTIVE tenant ring becomes FAULTED, a DELETING one stays. -/
def SqContext.fetchFailed (x : SqContext) (r : Fin 16) : SqContext :=
  if r = 0 then { x with fetchHold := true }
  else { x with state := if x.state = .active then .faulted else x.state }

/-- The fetch of a context fails (R164): the context is freed, the reservation released, the ring changes, SQ_FAULTED is
posted, and a DELETING ring may retire. DESIGN CHOICE (log entry 37): within the step, in this order; the drain that the
released reservation allows (R179) comes before the notice. -/
def State.failFetch (s : State) (c : Fin 8) (r : Fin 16) (head : Nat) : State :=
  let t := (s.freeContext c r).releaseReservation (s.sq r).cq
  let u := t.setSq r ((t.sq r).fetchFailed r)
  (u.postNotice .sqFaulted r.val head (u.sq r).state.code 0).retireIfDone r

/-- ENTRY_FETCH_FAILED (R164): an error completion or poisoned data, or HP's answer while the bus master enable is clear. -/
def execEntryFetchFailed (c : Fin 8) (s : State) : Host.Outcome State Fault Refusal :=
  .next (match s.entryFetchOf c with
    | some (r, h, _, _) => s.failFetch c r h
    | none => s)

/-- ENTRY_FETCH_TIMEOUT (R162, R164): no data within 100 µs of elapsed time. -/
def execEntryFetchTimeout (c : Fin 8) (s : State) : Host.Outcome State Fault Refusal :=
  .next (match s.entryFetchOf c with
    | some (r, h, timer, onLink) =>
      if onLink = true ∧ Config.readTimeoutNs ≤ timer then (s.noteStale (.entry c)).failFetch c r h else s
    | none => s)

/-- STALE_READ_DATA (R101, R164, R172, R173): the data is recognised as belonging to a read that has been given up, and
discarded. -/
def execStaleReadData (source : ReadSource) (s : State) : Host.Outcome State Fault Refusal :=
  .next { s with hp := { s.hp with stale := s.hp.stale.erase source } }

/-! ## Creating and deleting a submission ring (R168, R169) -/

/-- The checks of R168 in their order, for a ring number below 16: the refusal, or the new context. -/
def State.newSq (s : State) (r : Fin 16) (e : Entry) : Except Status SqContext :=
  if r = 0 then .error .noRing
  else if (s.sq r).state ≠ .absent then .error .alreadyExists
  else match finOf 16 (bytesOf e 3 1) with
    | none => .error .noRing
    | some q =>
      let tenant := bytesOf e 2 1
      let weight := bytesOf e 4 1
      let base : Addr := e.extractLsb' 64 64
      let size := bytesOf e 16 2
      if (s.cq q).state ≠ .active then .error .noRing
      else if 1 ≤ tenant ∧ tenant ≤ 15 ∧ baseOk base = true ∧ ringSizeOk size = true ∧ 1 ≤ weight ∧ weight ≤ 8 then
        .ok { state := .active, tenant := tenant, base := base, size := size, head := 0, tail := 0, cq := q,
              weight := weight, inFlight := false, fetchHold := false, credit := weight }
      else .error .badField

/-- CREATE SUBMISSION RING (R168). -/
def execCreateSubmissionRing (c : Fin 8) (s : State) : Host.Outcome State Fault Refusal :=
  .next (match s.requestOf c .createSq with
    | some (r, e) =>
      match finOf 16 (bytesOf e 1 1) with
      | none => s.completeRequest c r { status := .noRing, time := s.now }
      | some n =>
        match s.newSq n e with
        | .error st =>
          s.completeRequest c r
            { status := st, time := s.now, aux32 := (s.sq n).state.code,
              value := if st = .alreadyExists then BitVec.ofNat 64 (s.sq n).tenant else 0 }
        | .ok x =>
          (s.setSq n x).completeRequest c r
            { status := .ok, time := s.now, aux32 := (s.sq n).state.code, value := BitVec.ofNat 64 x.tenant }
    | none => s)

/-- The checks of R169 in their order. -/
def State.deleteSqRefusal (s : State) (number : Nat) : Option Status :=
  if number = 0 then some .notPermitted
  else match finOf 16 number with
    | none => some .noRing
    | some n =>
      if (s.sq n).state = .absent then some .noRing
      else if (s.sq n).state = .deleting then some .wrongState
      else none

/-- The immediate work of an accepted deletion (R61, R169): the ring becomes DELETING and its slots are swept. -/
def State.deleteSq (s : State) (n : Fin 16) : State :=
  (s.setSq n { s.sq n with state := .deleting }).sweepRing n

/-- DELETE SUBMISSION RING (R169): a ring with nothing in flight and no occupied slot retires at once (R170). DESIGN CHOICE
(log entry 31): aux32 carries the number of slots removed, as R169 and section 11.3 say, and not the state code that R153
names. DESIGN CHOICE (log entry 32): the completion is handed to CU before the SQ_RETIRED notice; R170 leaves the two
unordered. -/
def execDeleteSubmissionRing (c : Fin 8) (s : State) : Host.Outcome State Fault Refusal :=
  .next (match s.requestOf c .deleteSq with
    | some (r, e) =>
      match s.deleteSqRefusal (bytesOf e 1 1), finOf 16 (bytesOf e 1 1) with
      | none, some n =>
        ((s.deleteSq n).completeRequest c r
          { status := .ok, time := s.now, aux32 := s.sweepRemoved n,
            value := BitVec.ofNat 64 ((s.deleteSq n).slotsOfRing n).length }).retireIfDone n
      | some st, _ => s.completeRequest c r { status := st, time := s.now }
      | none, none => s.completeRequest c r { status := .noRing, time := s.now }
    | none => s)

end Sys2Proof.Machine
end

