-- ==== Sys2Proof/Machine/HostPort.lean ====
section
/-! DEFINITION. The host port: the register window, enable, teardown and reset, the bus master enable, and IDENTIFY
(chapter 10). -/

namespace Sys2Proof.Machine

open Sys2Proof

/-! ## Reading registers (R15 to R17, R197, R198) -/

/-- The 64-bit content that a register number reads as. -/
def State.registerWord (s : State) (number : Nat) : Word64 :=
  match number with
  | 0 => identWord
  | 1 => if s.hp.enable then 1 else 0
  | 2 => statusWord s
  | 3 => s.hp.adminSq
  | 4 => s.hp.adminCq
  | 7 => BitVec.ofNat 64 s.now
  | _ => 0

/-- What a read of the register window returns (R197, R198): a 64-bit read at a multiple of 8, or a 32-bit read at a multiple
of 4, which reaches one half of a register; the high half of TIME is the latch (R17). Every other access reads 0. -/
def State.registerRead (s : State) (offset : BitVec 12) (access : Access) : Word64 :=
  match access with
  | .qword => if offset.toNat % 8 = 0 then s.registerWord (offset.toNat / 8) else 0
  | .dword =>
    if offset.toNat = 0x3C then (s.hp.timeLatch.setWidth 64)
    else if offset.toNat % 8 = 0 then (s.registerWord (offset.toNat / 8)) &&& 0xFFFFFFFF
    else if offset.toNat % 8 = 4 then (s.registerWord (offset.toNat / 8)) >>> 32
    else 0
  | .other => 0

/-- TIME_LOW_READ (R16): a 32-bit read of the low half of TIME returns the low 32 bits of one sample and loads its
high 32 bits into the latch. DESIGN CHOICE (log entry 3): the data stands in `answer`. -/
def execTimeLowRead (s : State) : Host.Outcome State Fault Refusal :=
  .next { s with hp := { s.hp with
    answer := s.registerRead 0x38 .dword
    timeLatch := (BitVec.ofNat 64 s.now).extractLsb' 32 32 } }

/-! ## Enable (R201, R202) -/

/-- Submission ring 0 as the enable builds it (R154, R213). DESIGN CHOICE (log entry 5): its weight and its credit, which
are not used (R152, R161), are 0. -/
def ring0Sq (d : Word64) : SqContext :=
  { state := .active, tenant := 0, base := adminBase d, size := adminSize d, head := 0, tail := 0, cq := 0, weight := 0,
    inFlight := false, fetchHold := false, credit := 0 }

/-- Completion ring 0 as the enable builds it (R196, R213). -/
def ring0Cq (d : Word64) : CqContext :=
  CqContext.created (adminBase d) (adminSize d) { addr := 0, value := 0, threshold := 1, hold := 0 }

/-- The enable (R202), in one step: both definitions valid, they are latched, the two rings 0 are built and READY is set;
otherwise CONFIG_ERROR is set and nothing else is done. -/
def State.doEnable (s : State) : State :=
  if adminValid s.hp.adminSq && adminValid s.hp.adminCq then
    let t := (s.setSq 0 (ring0Sq s.hp.adminSq)).setCq 0 (ring0Cq s.hp.adminCq)
    { t with hp := { t.hp with condition := .ready, latched := some (s.hp.adminSq, s.hp.adminCq) } }
  else { s with hp := { s.hp with condition := .off, configError := true } }

/-! ## Teardown (R203) -/

/-- The read that a context gives up when its request is abandoned (R173). -/
def abandonedRead (c : Fin 8) : ReqContext → List ReadSource
  | .fetch _ _ _ true => [.entry c]
  | .effect _ _ _ (.listFetch _ _ _ true) => [.list c]
  | _ => []

/-- The reads of all contexts that are given up. -/
def State.abandonedReads (s : State) : List ReadSource :=
  ([0, 1, 2, 3, 4, 5, 6, 7] : List (Fin 8)).flatMap (fun c => abandonedRead c (s.ctx c))

/-- A slot is held by an engine that still waits for a transaction or a LINE request (R63, R94). -/
def State.heldByEngine (s : State) (id : Nat) : Bool :=
  ([0, 1, 2, 3] : List (Fin 4)).any (fun e => (s.engine e).state == .running && (s.engine e).slot == id)

/-- LNU at teardown (R136): no calendar, no listen lists, no report, no edge history. A step event that LNU has not acted on
is discarded, since LNU does not act on it (R130). -/
def LineUnit.tornDown (l : LineUnit) : LineUnit :=
  { l with
    calendar := []
    listen := Vector.replicate 4 []
    steps := []
    inputs := l.inputs.map (fun x => { x with report := none, reportRing := none, lastEdge := none, suppressed := 0 }) }

/-- Every engine is told of the teardown (R94). -/
def State.teardownEngines (s : State) : State :=
  (((s.teardownEngine 0).teardownEngine 1).teardownEngine 2).teardownEngine 3

/-- Teardown begins (R203): HP sets TEARDOWN and clears READY, and every block does what its chapter states. Slots
whose engines still wait are freed when they stop. CU writes that wait for the link stay (R195); an identity write is
abandoned with its request: DEDUCED (log entry 28), with no part of it placed on the link: DESIGN CHOICE (log entry 33).
DEDUCED (log entry 29): a step event that DSP has not acted on is discarded. -/
def State.beginTeardown (s : State) : State :=
  let t := s.teardownEngines.linesSafe
  { t with
    hp := { t.hp with
      condition := .teardown
      posted := t.hp.posted.filter (fun p => match p with
        | .cu _ _ => true
        | _ => false)
      stale := t.hp.stale ++ t.abandonedReads }
    rqe := RequestEngine.reset
    ast := { t.ast with slots := t.ast.slots.filter (fun p => t.heldByEngine p.1) }
    dsp := { t.dsp with schedule := [], hold := false, steps := [] }
    lnu := t.lnu.tornDown
    cu := Vector.replicate 16 CqContext.absent }

/-- A write of CONTROL.ENABLE (R201). -/
def State.writeEnable (s : State) (b : Bool) : State :=
  let t := { s with hp := { s.hp with enable := b } }
  match s.hp.condition with
  | .teardown => t
  | .off =>
    if b && !s.hp.enable then t.doEnable
    else if !b && s.hp.enable then t.beginTeardown
    else t
  | .ready => if b then t else t.beginTeardown
  | .fatal => if b then t else t.beginTeardown

/-- ENABLE (R201, R202): a write of 1 to CONTROL.ENABLE. -/
def execEnable (s : State) : Host.Outcome State Fault Refusal := .next (s.writeEnable true)

/-- TEARDOWN (R201, R203): a write of 0 to CONTROL.ENABLE. -/
def execTeardown (s : State) : Host.Outcome State Fault Refusal := .next (s.writeEnable false)

/-- A waiting write of CU. -/
def Posted.isCu : Posted → Bool
  | .cu _ _ => true
  | _ => false

/-- What the end of teardown waits for (R204): every engine IDLE with its operation path IDLE, no CU write waiting, no LINE
request in flight (its engine would be RUNNING). -/
def State.teardownDone (s : State) : Bool :=
  s.dsp.engines.toList.all (fun x => x.state == .idle && x.path.phase == .idle) && !s.hp.posted.any Posted.isCu

/-- Input lines when teardown ends (R118, R136): the first sample of an enabled line sets its level. -/
def InputLine.resumed (x : InputLine) : InputLine := { x with level := none, sampled := true }

/-- Teardown ends (R204). -/
def State.endTeardown (s : State) : State :=
  let t := { s with
    hp := { s.hp with condition := .off, fatalBit := false, configError := false, latched := none }
    lnu := { s.lnu with inputs := s.lnu.inputs.map InputLine.resumed } }
  if s.hp.enable then t.doEnable else t

/-- TEARDOWN_END (R204). -/
def execTeardownEnd (s : State) : Host.Outcome State Fault Refusal :=
  .next (if s.hp.condition = .teardown ∧ s.teardownDone = true then s.endTeardown else s)

/-! ## Reset (R206) -/

/-- RESET (R206): every block returns to its reset state at once, whatever the kind. The queue of commands and the record of
what was placed on the link are not the part's. DESIGN CHOICE (log entry 33): of an identity record that waits, no part has been
placed. -/
def execReset (_kind : ResetKind) (s : State) : Host.Outcome State Fault Refusal :=
  .next { State.reset with pending := s.pending, hp := { HostPort.reset with bus := s.hp.bus } }

/-! ## The bus master enable and register writes (R197 to R199) -/

/-- BUS_MASTER_ENABLE_CHANGE (R199): from now on HP issues, or refuses, what its requesters hand it. -/
def execBusMasterEnableChange (on : Bool) (s : State) : Host.Outcome State Fault Refusal :=
  .next { s with hp := { s.hp with busMaster := on } }

/-- A write of one half of a 64-bit register. -/
def writeHalf (old : Word64) (high : Bool) (data : Word64) : Word64 :=
  if high then (old &&& 0xFFFFFFFF) ||| (data <<< 32)
  else (old &&& ~~~(0xFFFFFFFF : Word64)) ||| (data &&& 0xFFFFFFFF)

/-- A write that reaches a register whole, or its low half with the high half taken as 0 (R198). -/
def State.writeRegister (s : State) (number : Nat) (data : Word64) : State :=
  match number with
  | 1 => s.writeEnable (data.getLsbD 0)
  | 3 => { s with hp := { s.hp with adminSq := data } }
  | 4 => { s with hp := { s.hp with adminCq := data } }
  | 5 => s.writePost data
  | 6 => s.writeRelease data
  | _ => s

/-- A 32-bit write: the half written of ADMIN_SQ or ADMIN_CQ is stored; the low half of a command register is the command;
the high half of any other register is ignored (R198). -/
def State.writeRegisterHalf (s : State) (number : Nat) (high : Bool) (data : Word64) : State :=
  match number with
  | 3 => { s with hp := { s.hp with adminSq := writeHalf s.hp.adminSq high data } }
  | 4 => { s with hp := { s.hp with adminCq := writeHalf s.hp.adminCq high data } }
  | n => if high then s else s.writeRegister n (data &&& 0xFFFFFFFF)

/-- A write access to the register window (R197): any length or alignment that HP does not accept is ignored. -/
def State.writeWindow (s : State) (offset : BitVec 12) (access : Access) (data : Word64) : State :=
  match access with
  | .qword => if offset.toNat % 8 = 0 then s.writeRegister (offset.toNat / 8) data else s
  | .dword => if offset.toNat % 4 = 0 then s.writeRegisterHalf (offset.toNat / 8) (offset.toNat % 8 == 4) data else s
  | .other => s

/-- REGISTER_WRITE (R198). -/
def execRegisterWrite (offset : BitVec 12) (access : Access) (data : Word64) (s : State) :
    Host.Outcome State Fault Refusal := .next (s.writeWindow offset access data)

/-! ## IDENTIFY (R207, R212) -/

/-- The buffer address of an IDENTIFY entry. -/
def identifyAddr (e : Entry) : Addr := e.extractLsb' 64 64

/-- The completion fields of IDENTIFY (R207): the buffer address in value and the revision in aux32. -/
def identifyResult (status : Status) (sample : Nat) (a : Addr) : Result :=
  { status := status, time := sample, aux32 := Config.revision.toNat, value := a }

/-- IDENTIFY (R207): a buffer address that is 0 or not a multiple of 64 is refused; otherwise the record is handed to HP
behind the writes that wait. -/
def execIdentify (c : Fin 8) (s : State) : Host.Outcome State Fault Refusal :=
  .next (match s.requestOf c .identify with
    | some (r, e) =>
      if identifyAddr e = 0 ∨ (identifyAddr e).toNat % 64 ≠ 0 then
        s.completeRequest c r (identifyResult .badField s.now (identifyAddr e))
      else
        (s.setProgress c (.identity s.now)).queuePosted (.identity c (identifyAddr e) (!s.hp.busMaster))
    | none => s)

/-- The IDENTIFY whose record waits at HP in a context: ring, entry, sample. -/
def State.identityOf (s : State) (c : Fin 8) : Option (Fin 16 × Entry × Nat) :=
  if s.isReady then
    match s.ctx c with
    | .effect r _ e (.identity sample) => some (r, e, sample)
    | _ => none
  else none

/-- The bytes of the record placed on the link before HP refused the rest: none where it refused the first (R207, R212). -/
def State.placePrefix (s : State) (c : Fin 8) (a : Addr) (bytes : Nat) : State :=
  if bytes = 0 then s else s.place (.identity c a bytes identityRecord)

/-- IDENTIFY_RECORD_ISSUED (R207): the record at the front of those waiting is issued whole, and IDENTIFY completes
with OK; or HP refuses it, after a first part of it may have been issued, and IDENTIFY completes with BUS_ERROR.
DESIGN CHOICE (log entry 20). -/
def execIdentifyRecordIssued (c : Fin 8) (prefixBytes : Fin 64) (s : State) : Host.Outcome State Fault Refusal :=
  .next (match s.identityOf c, s.hp.posted with
    | some (r, _, sample), .identity d a refused :: rest =>
      if d = c then
        let t := { s with hp := { s.hp with posted := rest } }
        if refused || !s.hp.busMaster then
          (t.placePrefix c a (if refused then 0 else prefixBytes.val)).completeRequest c r
            (identifyResult .busError sample a)
        else (t.place (.identity c a 64 identityRecord)).completeRequest c r (identifyResult .ok sample a)
      else s
    | _, _ => s)

end Sys2Proof.Machine
end

