-- ==== Sys2Proof/Machine/Lines.lean ====
section
/-! DEFINITION. The line unit: input edges, the gate calendar, and the line commands (chapter 6). -/

namespace Sys2Proof.Machine

open Sys2Proof

/-! ## CONFIGURE INPUT LINE (R117) -/

/-- The coded fields of CONFIGURE INPUT LINE that pass checks 1 and 2 of R117: enabled, report select with its ring number,
spacing. -/
structure InputConfig where
  enabled : Bool
  report : Option (EdgeSelect × Nat)
  spacing : Nat
  deriving DecidableEq, Repr

/-- Checks 1 and 2 of R117, the line apart. -/
def inputConfigOf (e : Entry) : Option InputConfig :=
  let enabled := bytesOf e 2 1
  let select := bytesOf e 3 1
  let ring := bytesOf e 4 1
  let spacing := bytesOf e 8 4
  if 1 < enabled ∨ Config.maxSpacing < spacing then none
  else if select = 0 then
    if ring = 0 then some { enabled := enabled == 1, report := none, spacing := spacing } else none
  else match edgeSelectOf select with
    | none => none
    | some k => if ring < 16 then some { enabled := enabled == 1, report := some (k, ring), spacing := spacing } else none

/-- The record after an accepted command: the four configured fields, no edge history; a line that becomes enabled takes its
next sample as the level from which edges are judged (R117, R118). -/
def InputLine.configured (x : InputLine) (enabled : Bool) (report : Option EdgeSelect) (ring : Option (Fin 16))
    (spacing : Nat) : InputLine :=
  { enabled := enabled, report := report, reportRing := ring, spacing := spacing, lastEdge := none, suppressed := 0,
    level := if enabled && x.enabled then x.level else none,
    sampled := if enabled && x.enabled then x.sampled else true }

/-- The completion fields (R117): the suppressed count and the last accepted edge before the command. -/
def inputResult (status : Status) (now : Nat) (x : InputLine) : Result :=
  { status := status, time := now, aux32 := x.suppressed, value := BitVec.ofNat 64 (x.lastEdge.getD 0) }

/-- CONFIGURE INPUT LINE (R117). A line code that names no line reports 0 (log entry 9). -/
def execConfigureInputLine (c : Fin 8) (s : State) : Host.Outcome State Fault Refusal :=
  .next (match s.requestOf c .configureInput with
    | some (r, e) =>
      match finOf 4 (bytesOf e 1 1) with
      | none => s.completeRequest c r { status := .badField, time := s.now }
      | some l =>
        match inputConfigOf e with
        | none => s.completeRequest c r (inputResult .badField s.now (s.input l))
        | some f =>
          match f.report with
          | none =>
            (s.setInput l ((s.input l).configured f.enabled none none f.spacing)).completeRequest c r
              (inputResult .ok s.now (s.input l))
          | some (k, n) =>
            match finOf 16 n with
            | none => s.completeRequest c r (inputResult .badField s.now (s.input l))
            | some q =>
              if (s.cq q).state = .active then
                (s.setInput l ((s.input l).configured f.enabled (some k) (some q) f.spacing)).completeRequest c r
                  (inputResult .ok s.now (s.input l))
              else s.completeRequest c r (inputResult .noRing s.now (s.input l))
    | none => s)

/-! ## Input edges (R118 to R121, R128) -/

/-- The level that an edge leads to (R118). -/
def edgeLevel : EdgeKind → Level
  | .rise => .high
  | .fall => .low

/-- A selection covers a kind of edge. -/
def EdgeSelect.covers : EdgeSelect → EdgeKind → Bool
  | .either, _ => true
  | .rise, .rise => true
  | .fall, .fall => true
  | _, _ => false

/-- LNU can see this edge on this line now (R118): the line is enabled, the sample of this period has not been taken, and
the level last sampled is not already the new one. -/
def InputLine.sees (x : InputLine) (k : EdgeKind) : Bool := x.enabled && !x.sampled && x.level != some (edgeLevel k)

/-- A stamped edge is suppressed (R119). -/
def InputLine.suppresses (x : InputLine) (stamp : Nat) : Bool :=
  match x.lastEdge with
  | some t => decide (t ≤ stamp ∧ stamp - t < x.spacing)
  | none => false

/-- A listener qualifies for an edge (R128). -/
def Slot.qualifies (x : Slot) (k : EdgeKind) (stamp : Nat) : Bool :=
  x.state == .listening && (match x.gate with
    | some g => g.edge.covers k && decide (g.openTime ≤ stamp ∧ stamp ≤ g.closeTime)
    | none => false)

/-- The slot of this number is a listener that qualifies. -/
def State.qualifies (s : State) (k : EdgeKind) (stamp : Nat) (id : Nat) : Bool :=
  match s.slot? id with
  | some x => x.qualifies k stamp
  | none => false

/-- The qualifying listeners of a line, in list order (R128). -/
def State.qualifying (s : State) (l : Fin 4) (k : EdgeKind) (stamp : Nat) : List Nat :=
  (s.lnu.listen[l]).filter (s.qualifies k stamp)

/-- A listener is released into the firing schedule with due the edge stamp plus its delay (R128). DESIGN CHOICE (log
entry 27): the slot keeps its gate part, which nothing reads any more. -/
def State.releaseListener (stamp : Nat) (s : State) (id : Nat) : State :=
  match s.slot? id with
  | some x => (s.unplace (fun k => k == id)).enterSchedule id x (stamp + (x.gate.map Gate.delay).getD 0)
  | none => s

/-- Every qualifying listener is released, in list order (R128). -/
def State.releaseAll (s : State) (l : Fin 4) (k : EdgeKind) (stamp : Nat) : State :=
  (s.qualifying l k stamp).foldl (State.releaseListener stamp) s

/-- The edge completion (R121). -/
def edgeCompletion (l : Fin 4) (k : EdgeKind) (stamp suppressed released : Nat) : Completion :=
  { kind := .edge, status := .ok, source := l.val, aux16 := suppressed, aux32 := edgeCode k, time := stamp,
    value := BitVec.ofNat 64 released }

/-- An accepted edge is reported when the report select covers it, and the suppressed count is then cleared (R120). -/
def State.reportEdge (s : State) (l : Fin 4) (k : EdgeKind) (stamp released : Nat) : State :=
  match (s.input l).report, (s.input l).reportRing with
  | some sel, some q =>
    if sel.covers k then
      (s.postCompletion q (edgeCompletion l k stamp (s.input l).suppressed released)).setInput l
        { s.input l with suppressed := 0 }
    else s
  | _, _ => s

/-- An accepted edge (R120): it becomes the last accepted edge, is offered to the listen list, and may be reported. -/
def State.acceptEdge (s : State) (l : Fin 4) (k : EdgeKind) : State :=
  let t := s.setInput l { s.input l with lastEdge := some s.now, level := some (edgeLevel k), sampled := true }
  (t.releaseAll l k s.now).reportEdge l k s.now (t.qualifying l k s.now).length

/-- A suppressed edge adds 1 to the suppressed count and does nothing else (R119). -/
def State.suppressEdge (s : State) (l : Fin 4) (k : EdgeKind) : State :=
  s.setInput l
    { s.input l with suppressed := raise (s.input l).suppressed 1, level := some (edgeLevel k), sampled := true }

/-- INPUT_EDGE (R118): an edge seen on an enabled line, outside FATAL and teardown. -/
def execInputEdge (l : Fin 4) (k : EdgeKind) (s : State) : Host.Outcome State Fault Refusal :=
  .next (if s.live && (s.input l).sees k then
    if (s.input l).suppresses s.now then s.suppressEdge l k else s.acceptEdge l k
  else s)

/-! ## The gate calendar (R124 to R130) -/

/-- An AWAITING action opens (R125): LISTENING, a new number, keyed by its close time, at the tail of its line's listen
list. -/
def State.openGate (s : State) (id : Nat) (x : Slot) (g : Gate) : State :=
  let t := (s.unplace (fun k => k == id)).enterCalendar id x .listening g.closeTime
  { t with lnu := { t.lnu with listen := t.lnu.listen.set g.line (t.lnu.listen[g.line] ++ [id]) } }

/-- The fire completion GATE_CLOSED (R127). -/
def gateClosedCompletion (x : Slot) (now closeTime : Nat) : Completion :=
  { kind := .fire, status := .gateClosed, source := x.ring.val, final := true, cancelled := x.endRequested, tag := x.tag,
    time := now, value := BitVec.ofNat 64 closeTime }

/-- A LISTENING action closes (R126): it fails with GATE_CLOSED, or enters the firing schedule due at its close time. -/
def State.closeGate (s : State) (id : Nat) (x : Slot) (g : Gate) : State :=
  match g.closePolicy with
  | .fail => (s.postCompletion (s.sq x.ring).cq (gateClosedCompletion x s.now g.closeTime)).endSlot id x.ring
  | .fireAtClose => (s.unplace (fun k => k == id)).enterSchedule id x g.closeTime

/-- The entry of the calendar's head leaves it without effect (R43). -/
def State.dropCalendarHead (s : State) : State := { s with lnu := { s.lnu with calendar := s.lnu.calendar.tail } }

/-- The head of the calendar has been reached: its slot and, if AST holds it, the slot's content. -/
def State.calendarHead? (s : State) : Option (Nat × Option Slot) :=
  match s.lnu.calendar with
  | h :: _ => if h.time ≤ s.now then some (h.slot, s.slot? h.slot) else none
  | [] => none

/-- LNU processes the head of the calendar once its key has been reached (R124): an AWAITING action opens, a LISTENING one
closes, and the entry of a slot that is neither any more is dropped (R43). -/
def State.processHead (s : State) : State :=
  match s.calendarHead? with
  | none => s
  | some (id, some x) =>
    match x.state, x.gate with
    | .awaiting, some g => s.openGate id x g
    | .listening, some g => s.closeGate id x g
    | _, _ => s.dropCalendarHead
  | some (_, none) => s.dropCalendarHead

/-- GATE_OPEN (R125): the head of the calendar is an AWAITING action whose open time has been reached. -/
def execGateOpen (s : State) : Host.Outcome State Fault Refusal :=
  .next (if s.live then
    match s.calendarHead? with
    | some (id, some x) =>
      match x.state, x.gate with
      | .awaiting, some g => s.openGate id x g
      | _, _ => s
    | _ => s
  else s)

/-- GATE_CLOSE (R126): the head of the calendar is a LISTENING action whose close time has been reached. -/
def execGateClose (s : State) : Host.Outcome State Fault Refusal :=
  .next (if s.live then
    match s.calendarHead? with
    | some (id, some x) =>
      match x.state, x.gate with
      | .listening, some g => s.closeGate id x g
      | _, _ => s
    | _ => s
  else s)

/-- The calendar is swept: its head is processed again and again, at most `n` times, until it has not been reached (R124). -/
def State.sweepUpTo : Nat → State → State
  | 0, s => s
  | n + 1, s => if s.calendarHead?.isSome then State.sweepUpTo n s.processHead else s

/-- The sweep of the whole calendar. Each entry is processed at most twice, once to open and once to close. -/
def State.sweepCalendar (s : State) : State := State.sweepUpTo (2 * s.lnu.calendar.length) s

/-- LNU_STEP_EVENT (R129, R130): LNU takes the oldest step event delivered to it and sweeps the calendar against the timebase
current when it acts. It does not act on it in FATAL or teardown. -/
def execLnuStepEvent (s : State) : Host.Outcome State Fault Refusal :=
  .next (match s.lnu.steps with
    | [] => s
    | _ :: rest =>
      let t := { s with lnu := { s.lnu with steps := rest } }
      if s.live then t.sweepCalendar else t)

/-! ## Output lines (R131 to R133) -/

/-- GRANT LINE (R132). A line code that names no line reports 0 (log entry 9). -/
def execGrantLine (c : Fin 8) (s : State) : Host.Outcome State Fault Refusal :=
  .next (match s.requestOf c .grantLine with
    | some (r, e) =>
      match outLineOf (bytesOf e 1 1) with
      | none => s.completeRequest c r { status := .badField, time := s.now }
      | some l =>
        let x := s.output l
        let tenant := bytesOf e 2 1
        let result (st : Status) : Result :=
          { status := st, time := s.now, aux32 := x.owner.getD 0, value := BitVec.ofNat 64 x.level.code }
        match levelOf (bytesOf e 3 1) with
        | none => s.completeRequest c r (result .badField)
        | some safe =>
          if tenant < 1 ∨ 15 < tenant then s.completeRequest c r (result .badField)
          else if x.owner.isSome then s.completeRequest c r (result .inUse)
          else (s.setOutput l { x with owner := some tenant, safe := safe }).completeRequest c r (result .ok)
    | none => s)

/-- REVOKE LINE (R133): the owner becomes none and the current level the safe level. -/
def execRevokeLine (c : Fin 8) (s : State) : Host.Outcome State Fault Refusal :=
  .next (match s.requestOf c .revokeLine with
    | some (r, e) =>
      match outLineOf (bytesOf e 1 1) with
      | none => s.completeRequest c r { status := .badField, time := s.now }
      | some l =>
        let x := s.output l
        (s.setOutput l { x with owner := none, level := x.safe }).completeRequest c r
          { status := .ok, time := s.now, aux32 := x.owner.getD 0, value := BitVec.ofNat 64 x.level.code }
    | none => s)

end Sys2Proof.Machine
end

