-- ==== Sys2Proof/Machine/Time.lean ====
section
/-! DEFINITION. The timebase: the advance of one reference period with every elapsed-time counter that it drives, and the
time commands (chapter 1). -/

namespace Sys2Proof.Machine

open Sys2Proof

/-! ## The slew record (R10 to R12) -/

/-- The slew record with a timed slew whose whole duration has elapsed taken as expired (R11). DESIGN CHOICE (log
entry 24). -/
def Slew.current : Slew → Slew
  | .timed _ 0 => .none
  | x => x

/-- The slew rate in ppb, 0 when no slew is active (R2). -/
def Slew.rate (x : Slew) : Int :=
  match x.current with
  | .none => 0
  | .endless r => r
  | .timed r _ => r

/-- The remaining time in whole ms, rounded up, 0 for a slew without end (R12). -/
def Slew.remainingMs (x : Slew) : Nat :=
  match x.current with
  | .timed _ n => (n + 999999) / 1000000
  | _ => 0

/-- The slew data of a completion (R10, R12, R211). -/
def Slew.data (x : Slew) : Word64 := slewData x.rate x.remainingMs

/-- The remaining time of a timed slew counts down by one reference period (R11). -/
def Slew.countDown (x : Slew) : Slew :=
  match x.current with
  | .timed r n => .timed r (n - Config.periodNs)
  | y => y

/-! ## The advance (R2, R3) -/

/-- The fraction with the addition of one reference period (R2). -/
def Timebase.sum (t : Timebase) : Nat := t.fraction + 8 * (10 ^ 9 + t.slew.rate).toNat

/-- The value that the advance carries to (R2). -/
def Timebase.carried (t : Timebase) : Nat := t.value + t.sum / Config.unitsPerNs

/-- TB at one reference period: the advance of R2, held at 2^63 − 1 with fraction 0 where it would pass it (R3). -/
def Timebase.advance (t : Timebase) : Timebase :=
  if t.carried ≤ Config.maxTime then
    { t with value := t.carried, fraction := t.sum % Config.unitsPerNs, slew := t.slew.countDown }
  else { t with value := Config.maxTime, fraction := 0, slew := t.slew.countDown }

/-! ## One reference period of elapsed time (R4) -/

/-- A counter of elapsed time advances by one period and stays at the end of its range. DESIGN CHOICE (log entry 21).
-/
def tickTo (limit t : Nat) : Nat := min (t + Config.periodNs) limit

/-- The read timer of a request context (R51, R162). -/
def ReqContext.tick : ReqContext → ReqContext
  | .free => .free
  | .fetch r h t l => .fetch r h (tickTo Config.readTimeoutNs t) l
  | .effect r h e (.listFetch id sample t l) => .effect r h e (.listFetch id sample (tickTo Config.readTimeoutNs t) l)
  | .effect r h e p => .effect r h e p

/-- The timers of an operation path in its phase: the read timer while a read is in flight, the POLL timers from the first
read of the POLL on, the wait timer (R101, R105, R109). The POLL timers of a path in READ_WAIT of another kind are not
looked at. -/
def OpPath.tick (p : OpPath) : OpPath :=
  match p.phase with
  | .readWait =>
    { p with readTimer := tickTo Config.readTimeoutNs p.readTimer
             pollLimitTimer := tickTo Config.maxWaitNs p.pollLimitTimer
             pollSpacingTimer := tickTo Config.pollSpacingNs p.pollSpacingTimer }
  | .pollGap =>
    { p with pollLimitTimer := tickTo Config.maxWaitNs p.pollLimitTimer
             pollSpacingTimer := tickTo Config.pollSpacingNs p.pollSpacingTimer }
  | .waiting => { p with waitTimer := tickTo Config.maxWaitNs p.waitTimer }
  | _ => p

/-- An engine at one reference period: a BOUND engine is no longer in the period of its staging (R72), a RUNNING one counts
its run time, unless a stop has reached it, and its operation path's timers (R76, R93). -/
def Engine.tick (x : Engine) : Engine :=
  match x.state with
  | .bound => { x with fresh := false }
  | .running =>
    { x with runTime := if x.stop = none then tickTo x.budget x.runTime else x.runTime, path := x.path.tick }
  | _ => x

/-- The hold timer of an ACTIVE ring (R187). DESIGN CHOICE (log entry 40): the hold timer, pending and notification state of a
ring that has become FAULTED stay as they are, and nothing reads them any more. -/
def CqContext.tick (x : CqContext) : CqContext :=
  if x.state = .active then { x with holdTimer := x.holdTimer.map (tickTo Config.maxHoldNs) } else x

/-- One reference period of the part: TB advances, elapsed time passes, the pins are sampled anew, and the link offers the
given number of credits. Hold timers do not count in FATAL (R191). -/
def State.period (s : State) (credits : Nat) : State :=
  { s with
    tb := s.tb.advance
    rqe := { s.rqe with ctxs := s.rqe.ctxs.map ReqContext.tick }
    dsp := { s.dsp with engines := s.dsp.engines.map Engine.tick }
    lnu := { s.lnu with inputs := s.lnu.inputs.map (fun x => { x with sampled := false }) }
    cu := if s.hp.condition = .fatal then s.cu else s.cu.map CqContext.tick
    hp := { s.hp with credits := credits } }

/-- TIMEBASE_ADVANCE (R2): one reference period. The operand is the number of posted writes that the link takes at
once in it (log entry 2). An advance that would pass 2^63 − 1 is held, as under TIMEBASE_CEILING (log entry 24). -/
def execTimebaseAdvance (credits : Nat) (s : State) : Host.Outcome State Fault Refusal := .next (s.period credits)

/-- TIMEBASE_CEILING (R3): a reference period whose advance would carry the value above 2^63 − 1. -/
def execTimebaseCeiling (credits : Nat) (s : State) : Host.Outcome State Fault Refusal :=
  .next (if Config.maxTime < s.tb.carried then s.period credits else s)

/-- SLEW_EXPIRED (R11): the whole duration of the slew has elapsed. -/
def execSlewExpired (s : State) : Host.Outcome State Fault Refusal :=
  .next { s with tb := { s.tb with slew := s.tb.slew.current } }

/-! ## The time commands (R8 to R13) -/

/-- TB delivers one step event to DSP and one to LNU (R13). -/
def State.deliverStep (s : State) (x : StepEvent) : State :=
  { s with dsp := { s.dsp with steps := s.dsp.steps ++ [x] }, lnu := { s.lnu with steps := s.lnu.steps ++ [x] } }

/-- The new value of a SET TIME entry. -/
def setTimeValue (e : Entry) : Nat := bytesOf e 8 8

/-- The offset of a STEP TIME entry, in two's complement. -/
def stepOffset (e : Entry) : Int := (e.extractLsb' 64 64).toInt

/-- The rate and the duration of a SLEW TIME entry. -/
def slewRateOf (e : Entry) : Int := (e.extractLsb' 64 32).toInt

def slewMsOf (e : Entry) : Nat := bytesOf e 12 2

/-- SET TIME (R8). DESIGN CHOICE (log entry 34): its completion is handed over in the step that delivers the step events, and
so before anything that the reactions of DSP and LNU bring about; R13 leaves the two unordered. -/
def execSetTime (c : Fin 8) (s : State) : Host.Outcome State Fault Refusal :=
  .next (match s.requestOf c .setTime with
    | some (r, e) =>
      let v := setTimeValue e
      if v ≤ Config.maxTime then
        let t := { s with tb := { value := v, fraction := 0, state := .running, slew := .none } }
        (t.deliverStep { kind := .set, before := s.now, after := v }).completeRequest c r
          { status := .ok, time := s.now, aux32 := s.tb.state.code, value := BitVec.ofNat 64 v }
      else s.completeRequest c r { status := .badTime, time := s.now, aux32 := s.tb.state.code }
    | none => s)

/-- The checks of STEP TIME in their order (R9): the value after the step, or the refusal. -/
def stepTarget (t : Timebase) (offset : Int) : Except Status Nat :=
  if t.state = .unset then .error .timebaseUnset
  else if 2 ^ 62 ≤ offset.natAbs then .error .badField
  else if t.value + offset < 0 ∨ (Config.maxTime : Int) < t.value + offset then .error .badTime
  else .ok (t.value + offset).toNat

/-- STEP TIME (R9): an offset of 0 is accepted and delivers no step event. DESIGN CHOICE (log entry 34): its completion is
handed over before anything that the reactions of DSP and LNU bring about; R13 leaves the two unordered. -/
def execStepTime (c : Fin 8) (s : State) : Host.Outcome State Fault Refusal :=
  .next (match s.requestOf c .stepTime with
    | some (r, e) =>
      match stepTarget s.tb (stepOffset e) with
      | .error st => s.completeRequest c r { status := st, time := s.now, aux32 := s.tb.state.code }
      | .ok v =>
        let t := { s with tb := { s.tb with value := v } }
        let u := if stepOffset e = 0 then t else t.deliverStep { kind := .step, before := s.now, after := v }
        u.completeRequest c r { status := .ok, time := s.now, aux32 := s.tb.state.code, value := BitVec.ofNat 64 v }
    | none => s)

/-- The slew that an accepted SLEW TIME puts in force (R10). -/
def newSlew (rate : Int) (ms : Nat) : Slew :=
  if rate = 0 then .none
  else if ms = 0 then .endless rate
  else .timed rate (1000000 * ms)

/-- SLEW TIME (R10). Every value of the 16-bit duration is in range. -/
def execSlewTime (c : Fin 8) (s : State) : Host.Outcome State Fault Refusal :=
  .next (match s.requestOf c .slewTime with
    | some (r, e) =>
      if s.tb.state = .unset then
        s.completeRequest c r { status := .timebaseUnset, time := s.now, aux32 := s.tb.state.code }
      else if slewRateOf e < -Config.maxRate ∨ Config.maxRate < slewRateOf e then
        s.completeRequest c r { status := .badField, time := s.now, aux32 := s.tb.state.code }
      else
        ({ s with tb := { s.tb with slew := newSlew (slewRateOf e) (slewMsOf e) } }).completeRequest c r
          { status := .ok, time := s.now, aux32 := s.tb.state.code, value := s.tb.slew.data }
    | none => s)

/-- READ TIME STATE (R12). -/
def execReadTimeState (c : Fin 8) (s : State) : Host.Outcome State Fault Refusal :=
  .next (match s.requestOf c .readTimeState with
    | some (r, _) =>
      s.completeRequest c r
        { status := .ok, time := s.now, aux32 := s.tb.state.code, value := s.tb.slew.data }
    | none => s)

end Sys2Proof.Machine
end

