-- ==== Sys2Proof/Machine/Windows.lean ====
section
/-! DEFINITION. SET WINDOW and CLEAR WINDOW (chapter 7). -/

namespace Sys2Proof.Machine

open Sys2Proof

/-- The completion fields of both commands: the window as it stood before the command, 0 and 0 if it was invalid (R146). -/
def windowResult (status : Status) (now : Nat) (before : Option Window) : Result :=
  { status := status, time := now, aux32 := windowCode before, value := (before.map Window.base).getD 0 }

/-- SET WINDOW (R145). -/
def execSetWindow (c : Fin 8) (s : State) : Host.Outcome State Fault Refusal :=
  .next (match s.requestOf c .setWindow with
    | some (r, e) =>
      match finOf 32 (bytesOf e 1 1) with
      | none => s.completeRequest c r (windowResult .badField s.now none)
      | some i =>
        match windowOf e with
        | none => s.completeRequest c r (windowResult .badField s.now s.wtb[i])
        | some w =>
          ({ s with wtb := s.wtb.set i (some w) }).completeRequest c r (windowResult .ok s.now s.wtb[i])
    | none => s)

/-- CLEAR WINDOW (R147). -/
def execClearWindow (c : Fin 8) (s : State) : Host.Outcome State Fault Refusal :=
  .next (match s.requestOf c .clearWindow with
    | some (r, e) =>
      match finOf 32 (bytesOf e 1 1) with
      | none => s.completeRequest c r (windowResult .badField s.now none)
      | some i => ({ s with wtb := s.wtb.set i none }).completeRequest c r (windowResult .ok s.now s.wtb[i])
    | none => s)

end Sys2Proof.Machine
end

