-- ==== Sys2Proof/Machine/Dispatch.lean ====
section
/-! DEFINITION. The meaning of each command, by the constructor's name. -/

namespace Sys2Proof.Machine

open Sys2Proof

/-- What a command does to the part, apart from the queue of commands that wait. -/
def exec (i : Instr) (s : State) : Host.Outcome State Fault Refusal :=
  match i with
  | .enable => Sys2Proof.Machine.execEnable s
  | .teardown => Sys2Proof.Machine.execTeardown s
  | .teardownEnd => Sys2Proof.Machine.execTeardownEnd s
  | .reset kind => Sys2Proof.Machine.execReset kind s
  | .busMasterEnableChange on => Sys2Proof.Machine.execBusMasterEnableChange on s
  | .registerWrite offset access data => Sys2Proof.Machine.execRegisterWrite offset access data s
  | .timeLowRead => Sys2Proof.Machine.execTimeLowRead s
  | .post data => Sys2Proof.Machine.execPost data s
  | .release data => Sys2Proof.Machine.execRelease data s
  | .requestGrant => Sys2Proof.Machine.execRequestGrant s
  | .entryTaken ctx entry => Sys2Proof.Machine.execEntryTaken ctx entry s
  | .entryFetchFailed ctx => Sys2Proof.Machine.execEntryFetchFailed ctx s
  | .entryFetchTimeout ctx => Sys2Proof.Machine.execEntryFetchTimeout ctx s
  | .staleReadData source => Sys2Proof.Machine.execStaleReadData source s
  | .arm ctx => Sys2Proof.Machine.execArm ctx s
  | .listFetchDone ctx result => Sys2Proof.Machine.execListFetchDone ctx result s
  | .listFetchTimeout ctx => Sys2Proof.Machine.execListFetchTimeout ctx s
  | .cancel ctx => Sys2Proof.Machine.execCancel ctx s
  | .cancelAll ctx => Sys2Proof.Machine.execCancelAll ctx s
  | .amend ctx => Sys2Proof.Machine.execAmend ctx s
  | .query ctx => Sys2Proof.Machine.execQuery ctx s
  | .setTenantLimits ctx => Sys2Proof.Machine.execSetTenantLimits ctx s
  | .setTime ctx => Sys2Proof.Machine.execSetTime ctx s
  | .stepTime ctx => Sys2Proof.Machine.execStepTime ctx s
  | .slewTime ctx => Sys2Proof.Machine.execSlewTime ctx s
  | .readTimeState ctx => Sys2Proof.Machine.execReadTimeState ctx s
  | .slewExpired => Sys2Proof.Machine.execSlewExpired s
  | .timebaseCeiling credits => Sys2Proof.Machine.execTimebaseCeiling credits s
  | .holdDispatch ctx => Sys2Proof.Machine.execHoldDispatch ctx s
  | .resumeDispatch ctx => Sys2Proof.Machine.execResumeDispatch ctx s
  | .setDispatch ctx => Sys2Proof.Machine.execSetDispatch ctx s
  | .configureInputLine ctx => Sys2Proof.Machine.execConfigureInputLine ctx s
  | .grantLine ctx => Sys2Proof.Machine.execGrantLine ctx s
  | .revokeLine ctx => Sys2Proof.Machine.execRevokeLine ctx s
  | .setWindow ctx => Sys2Proof.Machine.execSetWindow ctx s
  | .clearWindow ctx => Sys2Proof.Machine.execClearWindow ctx s
  | .createSubmissionRing ctx => Sys2Proof.Machine.execCreateSubmissionRing ctx s
  | .deleteSubmissionRing ctx => Sys2Proof.Machine.execDeleteSubmissionRing ctx s
  | .createCompletionRing ctx => Sys2Proof.Machine.execCreateCompletionRing ctx s
  | .tuneCompletionRing ctx => Sys2Proof.Machine.execTuneCompletionRing ctx s
  | .deleteCompletionRing ctx => Sys2Proof.Machine.execDeleteCompletionRing ctx s
  | .identify ctx => Sys2Proof.Machine.execIdentify ctx s
  | .identifyRecordIssued ctx prefixBytes => Sys2Proof.Machine.execIdentifyRecordIssued ctx prefixBytes s
  | .stage => Sys2Proof.Machine.execStage s
  | .instanceStart engine => Sys2Proof.Machine.execInstanceStart engine s
  | .budgetExpired engine => Sys2Proof.Machine.execBudgetExpired engine s
  | .dspStepEvent => Sys2Proof.Machine.execDspStepEvent s
  | .readDataReturned engine data => Sys2Proof.Machine.execReadDataReturned engine data s
  | .maskedWriteReadReturned engine data => Sys2Proof.Machine.execMaskedWriteReadReturned engine data s
  | .pollReadReturned engine data => Sys2Proof.Machine.execPollReadReturned engine data s
  | .readFailed engine => Sys2Proof.Machine.execReadFailed engine s
  | .readTimeout engine => Sys2Proof.Machine.execReadTimeout engine s
  | .writeAcceptedByLink engine => Sys2Proof.Machine.execWriteAcceptedByLink engine s
  | .pollSpacingElapsed engine => Sys2Proof.Machine.execPollSpacingElapsed engine s
  | .pollLimitExpired engine => Sys2Proof.Machine.execPollLimitExpired engine s
  | .waitElapsed engine => Sys2Proof.Machine.execWaitElapsed engine s
  | .lineRequest engine => Sys2Proof.Machine.execLineRequest engine s
  | .inputEdge line kind => Sys2Proof.Machine.execInputEdge line kind s
  | .gateOpen => Sys2Proof.Machine.execGateOpen s
  | .gateClose => Sys2Proof.Machine.execGateClose s
  | .lnuStepEvent => Sys2Proof.Machine.execLnuStepEvent s
  | .cuWriteAcceptedByLink => Sys2Proof.Machine.execCuWriteAcceptedByLink s
  | .holdTimerExpired ring => Sys2Proof.Machine.execHoldTimerExpired ring s
  | .completionWriteFailed => Sys2Proof.Machine.execCompletionWriteFailed s
  | .timebaseAdvance credits => Sys2Proof.Machine.execTimebaseAdvance credits s

end Sys2Proof.Machine
end

