-- ==== Sys2Proof/Machine/Step.lean ====
section
/-! DEFINITION. One step: the command at the front of the queue is carried out (95_what_each_step_holds.md: each command is
one whole, indivisible step). -/

namespace Sys2Proof.Machine

open Sys2Proof

/-- One step of the part: the command at the front of the queue takes effect on the part with the rest of the queue. DESIGN
CHOICE (log entry 13): with no command waiting the part idles. -/
def step (s : State) : Host.Outcome State Fault Refusal :=
  match s.pending with
  | [] => .next s
  | i :: rest => exec i { s with pending := rest }

/-- The state with the command that a word spells put at the front of its queue; unchanged where the word spells none, as
every word does here (log entry 14). -/
def State.withFetchWord (s : State) (nbits w : Nat) : State :=
  match Sys2Proof.decodeTableWord nbits w with
  | some i => { s with pending := i :: s.pending }
  | none => s

end Sys2Proof.Machine
end

