-- ==== Sys2Proof/Safety.lean ====
section
/-! DEFINITION. What the claims are stated in: what a completed request leaves behind, when a request is ready to take
effect, and the laws of the device that every step keeps (R1, R10, R42, R45, R46, R65, R122, R131, R138, R139, R178 to
R183). -/

namespace Sys2Proof.Machine

open Sys2Proof

/-! ## What CU has handed to HP (R177) -/

/-- The CU write that a transaction on the link carries. -/
def BusTxn.cuWrite? : BusTxn → Option CuWrite
  | .cuEntry r a d => some (.entry r a d)
  | .cuNotify r a v => some (.notify r a v)
  | _ => none

/-- The CU write that waits in a posted write. -/
def Posted.cuWrite? : Posted → Option CuWrite
  | .cu w _ => some w
  | _ => none

/-- Everything that CU has handed to HP and HP has not given up, oldest first: what the link has taken, then what waits
for it. The order of the posted writes is the order of the hand-over (R177, R199). -/
def State.handed (s : State) : List CuWrite :=
  s.hp.bus.filterMap BusTxn.cuWrite? ++ s.hp.posted.filterMap Posted.cuWrite?

/-- HP after it has taken these writes of CU, one after another (R177, R199). -/
def HostPort.takeAll (h : HostPort) (ws : List CuWrite) : HostPort := ws.foldl HostPort.takeCuWrite h

/-- From `s` to `t`, CU has handed these writes to HP in this order, and nothing else has happened at HP. -/
abbrev HandsOver (s t : State) (ws : List CuWrite) : Prop := t.hp = s.hp.takeAll ws ∧ t.handed = s.handed ++ ws

/-- The notification that a ring owes, if one is due (R187, R188). -/
def CqContext.notices (x : CqContext) (q : Fin 16) : List CuWrite :=
  if x.notifyDue then [.notify q x.notifyAddr x.notifyValue] else []

/-- A ring once a notification that is due has been sent. -/
def CqContext.settled (x : CqContext) : CqContext := if x.notifyDue then x.notified else x

/-- The entry write of a completion at the produced index of a ring: address, lap and lost count as they stand (R177,
R183). The wrap of an address past 2^64 − 1 is log entry 39. -/
def CqContext.entryWrite (x : CqContext) (q : Fin 16) (c : Completion) : CuWrite :=
  .entry q (x.entryAddr x.produced) (c.encode x.lap x.lost)

/-- A ring once `n` entries have been written to it, each with the notification that falls due by it (R177, R187). -/
def CqContext.wrote (x : CqContext) : Nat → CqContext
  | 0 => x
  | n + 1 => x.afterWrite.settled.wrote n

/-- What CU hands over when it writes these completions to a ring, oldest first: each entry at the ring as it then stands,
and behind it the notification that falls due by it (R177, R182, R187). -/
def CqContext.writes (x : CqContext) (q : Fin 16) : List Completion → List CuWrite
  | [] => []
  | c :: rest => x.entryWrite q c :: x.afterWrite.notices q ++ x.afterWrite.settled.writes q rest

/-! ## Records of software and of CU (section 11.2, section 11.3) -/

/-- An operation record of a kind that makes accesses (R33 to R35, R210): the width in bits, an address aligned to it, line
and level 0, the param, and data and mask within the width. -/
abbrev AccessRecord (r : Record) (kind : Nat) (w : Width) (a : Addr) (d m : Word64) (param : Nat) : Prop :=
  bytesOf r 0 1 = kind
    ∧ ((w = .w32 ∧ bytesOf r 1 1 = 32 ∧ a.toNat % 4 = 0 ∧ d.toNat < 2 ^ 32 ∧ m.toNat < 2 ^ 32)
      ∨ (w = .w64 ∧ bytesOf r 1 1 = 64 ∧ a.toNat % 8 = 0))
    ∧ bytesOf r 2 1 = 0 ∧ bytesOf r 3 1 = 0 ∧ bytesOf r 4 4 = param
    ∧ r.extractLsb' 64 64 = a ∧ r.extractLsb' 128 64 = d ∧ r.extractLsb' 192 64 = m

/-- The 32 bytes of an operation record hold this operation, every byte that its kind does not use being 0 (R33 to R36,
R210, section 11.2.3). -/
def RecordHolds (r : Record) : Op → Prop
  | .write w a d => AccessRecord r 1 w a d 0 0
  | .read w a => AccessRecord r 2 w a 0 0 0
  | .maskedWrite w a d m => AccessRecord r 3 w a d m 0
  | .poll w a d m limit => AccessRecord r 4 w a d m limit ∧ 1000 ≤ limit ∧ limit ≤ 10 ^ 9
  | .stamp a => AccessRecord r 5 .w64 a 0 0 0
  | .line l v =>
    bytesOf r 0 1 = 6 ∧ bytesOf r 1 1 = 0 ∧ bytesOf r 2 1 = l.val + 1
      ∧ ((v = .low ∧ bytesOf r 3 1 = 1) ∨ (v = .high ∧ bytesOf r 3 1 = 2)) ∧ r.extractLsb' 32 224 = 0
  | .wait length =>
    bytesOf r 0 1 = 7 ∧ r.extractLsb' 8 24 = 0 ∧ bytesOf r 4 4 = length ∧ 8 ≤ length ∧ length ≤ 10 ^ 9
      ∧ r.extractLsb' 64 192 = 0

/-- The fields of an ARM entry pass step 2 of R37 with these codes (R20 to R32, section 11.2.2): due mode with the phase of
ALIGNED below a nonzero period, policies and completion mode, the period 0 or 1,000 … 2^48, the gate part all 0 or in range
with period 0, the count 1 … 8 with its list address and unused inline slots. -/
def ArmFieldsHold (e : Entry) (p : ArmParams) : Prop :=
  ((bytesOf e 1 1 = 1 ∧ p.mode = .absolute) ∨ (bytesOf e 1 1 = 2 ∧ p.mode = .relative)
      ∨ (bytesOf e 1 1 = 3 ∧ p.mode = .aligned ∧ bytesOf e 8 8 < bytesOf e 16 8))
  ∧ ((bytesOf e 2 1 = 1 ∧ p.latePolicy = .fire) ∨ (bytesOf e 2 1 = 2 ∧ p.latePolicy = .skip)
      ∨ (bytesOf e 2 1 = 3 ∧ p.latePolicy = .abort))
  ∧ ((bytesOf e 3 1 = 1 ∧ p.faultPolicy = .endAction) ∨ (bytesOf e 3 1 = 2 ∧ p.faultPolicy = .continueAction))
  ∧ ((bytesOf e 30 1 = 1 ∧ p.completionMode = .every) ∨ (bytesOf e 30 1 = 2 ∧ p.completionMode = .finalAndFaults))
  ∧ (bytesOf e 16 8 = 0 ∨ (1000 ≤ bytesOf e 16 8 ∧ bytesOf e 16 8 ≤ 2 ^ 48))
  ∧ ((bytesOf e 40 1 = 0 ∧ p.gate = none ∧ e.extractLsb' 328 120 = 0)
    ∨ (bytesOf e 40 1 = 1 ∧ bytesOf e 16 8 = 0 ∧ ∃ g, p.gate = some g ∧ bytesOf e 41 1 = g.line.val
        ∧ ((bytesOf e 42 1 = 1 ∧ g.edge = .rise) ∨ (bytesOf e 42 1 = 2 ∧ g.edge = .fall)
          ∨ (bytesOf e 42 1 = 3 ∧ g.edge = .either))
        ∧ ((bytesOf e 43 1 = 1 ∧ g.closePolicy = .fail) ∨ (bytesOf e 43 1 = 2 ∧ g.closePolicy = .fireAtClose))
        ∧ g.delay = bytesOf e 44 4 ∧ g.listen = bytesOf e 48 8 ∧ 1 ≤ g.listen ∧ g.listen ≤ 2 ^ 40))
  ∧ ((bytesOf e 31 1 = 1 ∧ bytesOf e 32 8 = 0 ∧ e.extractLsb' 768 256 = 0)
    ∨ (bytesOf e 31 1 = 2 ∧ bytesOf e 32 8 = 0)
    ∨ (3 ≤ bytesOf e 31 1 ∧ bytesOf e 31 1 ≤ 8 ∧ bytesOf e 32 8 % 32 = 0 ∧ e.extractLsb' 512 512 = 0))

/-- The access or the line that an operation needs at arm time is its tenant's (R38). -/
def OpAllowed (s : State) (tenant : Nat) : Op → Prop
  | .write w a _ => permitted s.wtb tenant .write a w.bytes = true
  | .read w a => permitted s.wtb tenant .read a w.bytes = true
  | .maskedWrite w a _ _ =>
    permitted s.wtb tenant .read a w.bytes = true ∧ permitted s.wtb tenant .write a w.bytes = true
  | .poll w a _ _ _ => permitted s.wtb tenant .read a w.bytes = true
  | .stamp a => permitted s.wtb tenant .write a 8 = true
  | .line l _ => (s.output l).owner = some tenant
  | .wait _ => True

/-- The status of an operation that is not allowed (R38). -/
def deniedStatus : Op → Status
  | .line _ _ => .lineDenied
  | _ => .accessDenied

/-- The request kinds of section 11.5.1: the code, the kind, whether it is a tenant kind, and the byte ranges (first, length)
that the tables of section 11.2 name. -/
def requestKinds : List (Nat × ReqKind × Bool × List (Nat × Nat)) :=
  [(0x01, .arm, true, [(0, 56), (64, 64)]), (0x02, .cancel, true, [(0, 1), (4, 4)]), (0x03, .cancelAll, true, [(0, 1)]),
   (0x04, .amend, true, [(0, 18), (24, 8)]), (0x05, .query, true, [(0, 1), (4, 4)])]
  ++ [(0x40, .identify, false, [(0, 1), (8, 8)]), (0x41, .createSq, false, [(0, 5), (8, 10)]),
   (0x42, .deleteSq, false, [(0, 2)]), (0x43, .createCq, false, [(0, 2), (8, 13), (24, 12)]),
   (0x44, .tuneCq, false, [(0, 2), (18, 3), (24, 12)]), (0x45, .deleteCq, false, [(0, 2)]),
   (0x46, .setTenantLimits, false, [(0, 2), (8, 2)]), (0x47, .setWindow, false, [(0, 6), (8, 16)]),
   (0x48, .clearWindow, false, [(0, 2)]), (0x49, .configureInput, false, [(0, 5), (8, 4)]),
   (0x4A, .grantLine, false, [(0, 4)]), (0x4B, .revokeLine, false, [(0, 2)])]
  ++ [(0x4C, .setTime, false, [(0, 1), (8, 8)]), (0x4D, .stepTime, false, [(0, 1), (8, 8)]),
   (0x4E, .slewTime, false, [(0, 1), (8, 6)]), (0x4F, .readTimeState, false, [(0, 1)]),
   (0x50, .setDispatch, false, [(0, 1), (8, 4)]), (0x51, .holdDispatch, false, [(0, 1)]),
   (0x52, .resumeDispatch, false, [(0, 1)])]

/-! ## What answering a request leaves behind (R166, R167, R177, R180) -/

/-- From the state `u`, with the effect of a request in it, the request of ring `r` in context `c` has been answered: its
completion is written to the ring's completion ring against its reservation, with the notification that falls due; the
context is FREE and the ring no longer in flight; HP has taken the one or two writes, and nothing else of the part differs.
That the entry counts for the notification at its hand-over is log entry 38. -/
structure Answered (u t : State) (c : Fin 8) (r : Fin 16) (x : Result) : Prop where
  handed : t.handed = u.handed
    ++ (u.cq (u.sq r).cq).entryWrite (u.sq r).cq (x.completion r (u.sq r).head)
      :: (u.cq (u.sq r).cq).afterWrite.notices (u.sq r).cq
  cu : t.cu = u.cu.set (u.sq r).cq
    { (u.cq (u.sq r).cq).afterWrite.settled with owed := (u.cq (u.sq r).cq).owed - 1 }
  rqe : t.rqe = { u.rqe with ctxs := u.rqe.ctxs.set c .free, sqs := u.rqe.sqs.set r { u.sq r with inFlight := false } }
  ast : t.ast = u.ast
  dsp : t.dsp = u.dsp
  wtb : t.wtb = u.wtb
  lnu : t.lnu = u.lnu
  tb : t.tb = u.tb
  pending : t.pending = u.pending
  hp : t.hp = u.hp.takeAll
    ((u.cq (u.sq r).cq).entryWrite (u.sq r).cq (x.completion r (u.sq r).head)
      :: (u.cq (u.sq r).cq).afterWrite.notices (u.sq r).cq)

/-- From the state `v`, in which something that kept the DELETING ring `r` has just gone, the ring retires if no request of it
is in flight and it holds no slot: it becomes ABSENT and SQ_RETIRED is posted (R170). Otherwise nothing more happens. -/
structure RetiresIfEmpty (v t : State) (r : Fin 16) : Prop where
  waits : ((v.sq r).inFlight = true ∨ ∃ p ∈ v.ast.slots, p.2.ring = r) → t = v
  retires : (v.sq r).inFlight = false → (∀ p ∈ v.ast.slots, p.2.ring ≠ r) →
    t = (v.setSq r SqContext.absent).postCompletion 0
      { kind := .notice, status := .sqRetired, source := r.val, time := v.tb.value
        value := BitVec.ofNat 64 (v.sq r).tenant }

/-- An administrative request of this kind is ready to take effect (R154, R159, R163 to R166): the part is READY, the
context holds its entry, and the two rings 0 are ACTIVE and bound to each other. -/
abbrev AdminWaits (s : State) (c : Fin 8) (k : ReqKind) (e : Entry) : Prop :=
  s.hp.condition = .ready ∧ (s.ctx c).request? = some (0, e, .waiting) ∧ reqKindOf (kindCode e) = some k
    ∧ (s.sq 0).state = .active ∧ (s.sq 0).cq = 0 ∧ (s.cq 0).state = .active

/-- A tenant request of this kind is ready to take effect: the part is READY, the context holds its entry from ring `r`,
the ring exists and is not being deleted, and its completion ring is ACTIVE. -/
abbrev TenantWaits (s : State) (c : Fin 8) (k : ReqKind) (r : Fin 16) (e : Entry) : Prop :=
  s.hp.condition = .ready ∧ (s.ctx c).request? = some (r, e, .waiting) ∧ reqKindOf (kindCode e) = some k
    ∧ ((s.sq r).state = .active ∨ (s.sq r).state = .faulted) ∧ (s.cq (s.sq r).cq).state = .active

/-- An engine runs an instance of the action in slot content `x`, its operation `o` in progress in this phase (R68, R74,
R96). -/
abbrev InProgress (s : State) (e : Fin 4) (x : Slot) (o : Op) (p : Phase) : Prop :=
  (s.engine e).state = .running ∧ (s.engine e).path.phase = p ∧ s.slot? (s.engine e).slot = some x
    ∧ x.ops[(s.engine e).operation - 1]? = some o

/-- The part is neither FATAL nor in teardown. -/
abbrev Lives (s : State) : Prop := s.hp.condition ≠ .fatal ∧ s.hp.condition ≠ .teardown

/-- The link takes a posted write at once: none waits and there is a credit (R100, R177). -/
abbrev LinkTakes (s : State) : Prop := s.hp.busMaster = true ∧ s.hp.posted = [] ∧ 0 < s.hp.credits

/-! ## What staging leaves behind (R69, R71, R89, R91) -/

/-- The IDLE engines of `u` that are BOUND in `t`, in the order of their numbers. -/
def newlyBound (u t : State) : List (Fin 4) :=
  ([0, 1, 2, 3] : List (Fin 4)).filter (fun e => (u.engine e).state == .idle && (t.engine e).state == .bound)

/-- From `u`, staging has gone on, head after head, until the engines or the eligible actions have run out, and has left `t`;
`taken` are the heads that it has taken out of the firing schedule, in the order of the schedule (R69). -/
structure StagedFrom (u t : State) (taken : List TimedEntry) : Prop where
  /-- Heads are taken in the order of the schedule, and what follows them stays. -/
  order : u.dsp.schedule = taken ++ t.dsp.schedule
  /-- A head is taken only once its due less the lead has been reached. -/
  reached : ∀ h ∈ taken, h.time ≤ u.tb.value + 1000 * u.dsp.lead
  /-- Nothing is staged under hold, in FATAL or in teardown. -/
  stopped : (u.dsp.hold = true ∨ ¬ Lives u) → t = u
  /-- Otherwise nothing is left to stage: no entry, a head that lies ahead, or no IDLE engine. -/
  settled : u.dsp.hold = false → Lives u →
    t.dsp.schedule = [] ∨ (∃ h rest, t.dsp.schedule = h :: rest ∧ u.tb.value + 1000 * u.dsp.lead < h.time)
      ∨ ∀ e, (t.engine e).state ≠ .idle
  /-- An engine that was not IDLE is left alone. -/
  busy : ∀ e, (u.engine e).state ≠ .idle → t.engine e = u.engine e
  /-- An IDLE engine stays as it is or is BOUND to a head that was taken. -/
  bound : ∀ e, (u.engine e).state = .idle → t.engine e = u.engine e
    ∨ ∃ h ∈ taken, t.engine e = { Engine.released with state := .bound, slot := h.slot, due := h.time, fresh := true }
  /-- The lowest-numbered IDLE engine comes first. -/
  lowest : ∀ e f, f < e → (t.engine f).state = .idle → t.engine e = u.engine e
  /-- The slot of a head that was taken as ARMED is STAGED, and no other slot is touched. -/
  slots : ∀ id, t.slot? id = u.slot? id
    ∨ ∃ h ∈ taken, h.slot = id ∧ ∃ x, u.slot? id = some x ∧ x.state = .armed ∧ t.slot? id = some { x with state := .staged }
  /-- Where every entry of the schedule is the one entry of an ARMED slot, every head that was taken is STAGED, and the heads
  go in their order to the engines in the order of their numbers. -/
  filled : (∀ h ∈ u.dsp.schedule, ∃ x, u.slot? h.slot = some x ∧ x.state = .armed) →
    (u.dsp.schedule.map TimedEntry.slot).Nodup →
    (∀ h ∈ taken, ∃ x, u.slot? h.slot = some x ∧ t.slot? h.slot = some { x with state := .staged })
    ∧ (newlyBound u t).map (fun e => ((t.engine e).slot, (t.engine e).due)) = taken.map (fun h => (h.slot, h.time))
  /-- Nothing but the store, the schedule and the engines changes. -/
  frame : t = { u with
    ast := { u.ast with slots := t.ast.slots }
    dsp := { u.dsp with schedule := t.dsp.schedule, engines := t.dsp.engines } }

/-! ## The laws of the device -/

/-- A slew rate that may be in force: not 0 and within ±500,000 ppb (R10). -/
def rateOk (r : Int) : Bool := decide (r ≠ 0 ∧ -Config.maxRate ≤ r ∧ r ≤ Config.maxRate)

/-- A slew record that the commands can leave: no slew, or a rate in range with at most 65,535 ms remaining (R10). -/
def Slew.ok : Slew → Bool
  | .none => true
  | .endless r => rateOk r
  | .timed r n => rateOk r && decide (n ≤ 65535000000)

/-- The timebase keeps its ranges, and there is no slew in UNSET (R1, R2, R5, R10, R12). -/
abbrev TimebaseLaw (s : State) : Prop :=
  s.tb.value ≤ Config.maxTime ∧ s.tb.fraction < Config.unitsPerNs ∧ s.tb.slew.ok = true
    ∧ (s.tb.state = .unset → s.tb.slew = .none)

/-- A window that SET WINDOW can make valid (R138, R139, R140, R145). -/
def Window.ok (w : Window) : Bool :=
  decide (64 ≤ w.size ∧ w.size ≤ 2 ^ 48) && 2 ^ w.size.log2 == w.size && w.base.toNat % w.size == 0
    && !w.tenants.getLsbD 0

/-- Every valid window has a size that is a power of two from 64 to 2^48, a base that is a multiple of it, and a tenant set
without tenant 0 (R139, R140). -/
abbrev WindowLaw (s : State) : Prop := (validWindows s.wtb).all Window.ok = true

/-- An output line is owned by a tenant 1 … 15, or has no owner and stands at its safe level (R131, R133). -/
def OutputLine.ok (x : OutputLine) : Bool :=
  match x.owner with
  | none => x.level == x.safe
  | some n => decide (1 ≤ n ∧ n ≤ 15)

/-- Every output line keeps its law, and in FATAL and in teardown every one stands at its safe level (R131, R135, R136). -/
abbrev OutputLaw (s : State) : Prop :=
  s.lnu.outputs.toList.all OutputLine.ok = true
    ∧ (s.hp.condition = .fatal ∨ s.hp.condition = .teardown →
        s.lnu.outputs.toList.all (fun x => x.level == x.safe) = true)

/-- The lead, the budget and the input line configuration keep their ranges (R90, R95, R117, R119). -/
def InputLine.ok (x : InputLine) : Bool :=
  decide (x.spacing ≤ Config.maxSpacing ∧ x.suppressed ≤ Config.countLimit) && (x.report.isSome == x.reportRing.isSome)

abbrev ParameterLaw (s : State) : Prop :=
  2 ≤ s.dsp.lead ∧ s.dsp.lead ≤ 1000 ∧ 1 ≤ s.dsp.budget ∧ s.dsp.budget ≤ 1000
    ∧ s.lnu.inputs.toList.all InputLine.ok = true

/-- The firing schedule is ordered by due time, and the gate calendar by key time, each in the order of entry among equal
times (R65, R122): no entry would come before one that stands ahead of it. -/
abbrev OrderLaw (s : State) : Prop :=
  s.dsp.schedule.Pairwise (fun a b => b.before a = false) ∧ s.lnu.calendar.Pairwise (fun a b => b.before a = false)

/-- The occupied slots: numbers rising within the 1024, no tag twice in one ring, no tenant above its quota (R41, R45,
R46). -/
abbrev StoreLaw (s : State) : Prop :=
  s.ast.slots.Pairwise (fun a b => a.1 < b.1)
    ∧ (∀ p ∈ s.ast.slots, p.1 < Config.slotCount)
    ∧ s.ast.slots.Pairwise (fun a b => ¬ (a.2.ring = b.2.ring ∧ a.2.tag = b.2.tag))
    ∧ (∀ n : Fin 16, n ≠ 0 → s.holdings n.val ≤ s.ast.quotas[n] ∧ s.ast.quotas[n] ≤ Config.maxQuota)

/-! ### The accounting of the completion rings (R175, R178 to R183) -/

/-- The ring of the request that a context holds. -/
def ReqContext.ring? : ReqContext → Option (Fin 16)
  | .free => none
  | .fetch r _ _ _ => some r
  | .effect r _ _ _ => some r

/-- The number of contexts that hold a request of a ring. -/
def State.inFlightOf (s : State) (r : Fin 16) : Nat := s.rqe.ctxs.toList.countP (fun x => x.ring? == some r)

/-- The number of contexts whose request will complete on a completion ring. -/
def State.owedTo (s : State) (q : Fin 16) : Nat :=
  s.rqe.ctxs.toList.countP (fun x => match x.ring? with
    | some r => (s.sq r).cq == q
    | none => false)

/-- The accounting of one completion ring: what is unreleased and what is owed fit in the ring, every reservation belongs to
a request in flight, the produced index is the consumer index moved on by the unreleased entries, an ACTIVE ring holds
completions in its outbox only for want of room, and no other ring holds any. -/
def CqContext.ok (x : CqContext) : Bool :=
  decide (x.lost ≤ Config.countLimit)
    && (x.state == .absent
      || (ringSizeOk x.size && decide (x.produced < x.size ∧ x.consumer < x.size ∧ x.unreleased + x.owed ≤ x.size)
        && x.produced == (x.consumer + x.unreleased) % x.size))
    && (x.outbox.isEmpty || (x.state == .active && x.room == 0))

abbrev CompletionLaw (s : State) : Prop :=
  (∀ q : Fin 16, (s.cq q).ok = true ∧ (s.cq q).owed = s.owedTo q)
    ∧ s.poolUsed ≤ Config.poolSize
    ∧ (∀ r : Fin 16, s.inFlightOf r = if (s.sq r).inFlight then 1 else 0)
    ∧ (∀ r : Fin 16, (s.sq r).state ≠ .absent → (s.cq (s.sq r).cq).state ≠ .absent)
    ∧ (∀ r : Fin 16, (s.sq r).state = .absent → (s.sq r).inFlight = false)
    ∧ (s.hp.condition = .off ∨ s.hp.condition = .teardown →
        ∀ k : Fin 16, (s.sq k).state = .absent ∧ (s.cq k).state = .absent)

/-! ### The places of a slot (R42, R65, R68, R122, R123) -/

/-- The places that hold a slot number. -/
structure Places where
  inSchedule : List TimedEntry
  inCalendar : List TimedEntry
  listening : List Nat
  engines : List (EngineState × Nat)
  contexts : Nat
  deriving DecidableEq, Repr

/-- A context that fetches the operation list of a slot. -/
def ReqContext.fetches (id : Nat) : ReqContext → Bool
  | .effect _ _ _ (.listFetch k _ _ _) => k == id
  | _ => false

/-- Where a slot stands: its entries of the firing schedule and the gate calendar, how often each listen list holds it, the
states of the engines that hold it with the due time they were bound with, and the contexts that fetch its list. -/
def State.placesOf (s : State) (id : Nat) : Places :=
  { inSchedule := s.dsp.schedule.filter (fun t => t.slot == id)
    inCalendar := s.lnu.calendar.filter (fun t => t.slot == id)
    listening := s.lnu.listen.toList.map (fun l => l.count id)
    engines := (s.dsp.engines.toList.filter (fun x => x.state != .idle && x.slot == id)).map (fun x => (x.state, x.due))
    contexts := s.rqe.ctxs.toList.countP (ReqContext.fetches id) }

/-- The listen counts of a slot that stands in the list of one line. -/
def listenAt (l : Fin 4) : List Nat := [0, 1, 2, 3].map (fun k => if l.val = k then 1 else 0)

/-- No place but those that are named. -/
def Places.none : Places :=
  { inSchedule := [], inCalendar := [], listening := [0, 0, 0, 0], engines := [], contexts := 0 }

/-- The place that a slot's state gives it is the place that holds it, and no other place does (R42). -/
def Slot.placedIn (x : Slot) (id : Nat) (p : Places) : Bool :=
  match x.state, x.gate with
  | .pending, _ => p == { Places.none with contexts := 1 }
  | .armed, _ => p == { Places.none with inSchedule := [{ slot := id, time := x.due, seq := x.seq }] }
  | .awaiting, some g => p == { Places.none with inCalendar := [{ slot := id, time := g.openTime, seq := x.seq }] }
  | .listening, some g =>
    p == { Places.none with
      inCalendar := [{ slot := id, time := g.closeTime, seq := x.seq }], listening := listenAt g.line }
  | .staged, _ => p == { Places.none with engines := [(.bound, x.due)] } || p == { Places.none with engines := [(.halted, x.due)] }
  | .firing, _ => p == { Places.none with engines := [(.running, x.due)] } || p == { Places.none with engines := [(.halted, x.due)] }
  | .awaiting, none => false
  | .listening, none => false

/-- Every number that a place holds is the number of an occupied slot. -/
def State.noStrays (s : State) : Bool :=
  s.dsp.schedule.all (fun t => (s.slot? t.slot).isSome) && s.lnu.calendar.all (fun t => (s.slot? t.slot).isSome)
    && s.lnu.listen.toList.all (fun l => l.all (fun id => (s.slot? id).isSome))
    && s.dsp.engines.toList.all (fun x => x.state == .idle || (s.slot? x.slot).isSome)
    && s.rqe.ctxs.toList.all (fun x => match x with
      | .effect _ _ _ (.listFetch id _ _ _) => (s.slot? id).isSome
      | _ => true)

/-- Every occupied slot is in the one place that its state names, and a FREE slot is in none (R42). -/
abbrev PlacementLaw (s : State) : Prop :=
  (∀ p ∈ s.ast.slots, p.2.placedIn p.1 (s.placesOf p.1) = true) ∧ s.noStrays = true

end Sys2Proof.Machine
end

