-- ==== Sys2Proof/Certificates/Slice0/Obligations.lean ====
section
/-! DEFINITION. The statements about the FT40 for the provers, chapter by chapter. -/

section

open Sys2Proof Sys2Proof.Machine

/-! ## The queue of commands -/

/-- The command at the front of the queue takes effect on the part with the rest of the queue
(95_what_each_step_holds.md). The idling of an empty queue is the model's choice (log entry 13). -/
def Obligations.StepRunsFrontCommand : Prop :=
  (∀ (s : State) (i : Instr) (rest : List Instr), s.pending = i :: rest →
    step s = exec i { s with pending := rest })
  ∧ ∀ s : State, s.pending = [] → step s = .next s

/-- Every command ends in a next state, and none touches the queue of commands that wait. That a command whose condition
does not hold answers the state as it is, is the model's choice (log entry 8), and so is the queue (log entry 14). -/
def Obligations.CommandsKeepTheQueue : Prop :=
  ∀ (i : Instr) (s : State), ∃ t, exec i s = .next t ∧ t.pending = s.pending

/-! ## Timebase (chapter 1) -/

/-- R2: one reference period adds 8 × (10^9 + rate) units of 10^−9 ns, carried into the value whole ns by whole ns: 8
ns without a slew, 7, 8 or 9 ns with one, in UNSET and RUNNING alike. Of the part besides TB only the elapsed-time
counters, the link credits (log entry 2) and the sampled marks of the input lines change: LNU samples each line once
in a period (R118, log entry 6). -/
def Obligations.AdvanceAddsOnePeriod : Prop :=
  ∀ (s : State) (credits : Nat), TimebaseLaw s → s.tb.carried ≤ Config.maxTime →
    ∃ t, exec (.timebaseAdvance credits) s = .next t
      ∧ (10 ^ 9 * t.tb.value + t.tb.fraction : Int)
          = 10 ^ 9 * s.tb.value + s.tb.fraction + 8 * (10 ^ 9 + s.tb.slew.rate)
      ∧ t.tb.fraction < 10 ^ 9 ∧ t.tb.state = s.tb.state
      ∧ (s.tb.slew.rate = 0 → t.tb.value = s.tb.value + 8 ∧ t.tb.fraction = s.tb.fraction)
      ∧ s.tb.value + 7 ≤ t.tb.value ∧ t.tb.value ≤ s.tb.value + 9
      ∧ t.ast = s.ast ∧ t.wtb = s.wtb ∧ t.rqe.sqs = s.rqe.sqs ∧ t.rqe.pointer = s.rqe.pointer
      ∧ t.dsp.schedule = s.dsp.schedule ∧ t.dsp.hold = s.dsp.hold ∧ t.dsp.lead = s.dsp.lead
      ∧ t.dsp.budget = s.dsp.budget ∧ t.dsp.steps = s.dsp.steps
      ∧ t.lnu.calendar = s.lnu.calendar ∧ t.lnu.listen = s.lnu.listen ∧ t.lnu.outputs = s.lnu.outputs
      ∧ t.lnu.steps = s.lnu.steps ∧ (∀ l, t.input l = { s.input l with sampled := false })
      ∧ t.hp = { s.hp with credits := credits }

/-- R3: where the advance would carry the value above 2^63 − 1 it is held there with fraction 0, the state stays and a
timed slew counts on. A value of 2^63 − 1 is held at every period. That TIMEBASE_ADVANCE answers the same state as
TIMEBASE_CEILING there is log entry 24, and the link credits of the period are log entry 2. A new period begins for
the sampled marks of the input lines there too (R118, log entry 6). -/
def Obligations.AdvanceIsHeldAtTheCeiling : Prop :=
  (∀ (s : State) (credits : Nat), Config.maxTime < s.tb.carried →
    ∃ t, exec (.timebaseCeiling credits) s = .next t ∧ exec (.timebaseAdvance credits) s = .next t
      ∧ t.tb.value = 2 ^ 63 - 1 ∧ t.tb.fraction = 0 ∧ t.tb.state = s.tb.state
      ∧ (∀ r n, s.tb.slew = .timed r (n + 8) → t.tb.slew = .timed r n)
      ∧ t.ast = s.ast ∧ t.wtb = s.wtb ∧ t.rqe.sqs = s.rqe.sqs ∧ t.dsp.schedule = s.dsp.schedule
      ∧ t.lnu.calendar = s.lnu.calendar ∧ t.lnu.outputs = s.lnu.outputs
      ∧ (∀ l, t.input l = { s.input l with sampled := false }) ∧ t.hp = { s.hp with credits := credits })
  ∧ ∀ (s : State) (credits : Nat), TimebaseLaw s → s.tb.value = 2 ^ 63 - 1 →
    ∃ t, exec (.timebaseAdvance credits) s = .next t ∧ t.tb.value = 2 ^ 63 - 1 ∧ t.tb.fraction = 0

/-- R4, R11, R76, R101, R105, R106, R109, R162, R187: every elapsed-time counter of the part counts 8 ns at each
reference period, whatever the slew, and the remaining time of a timed slew counts down by 8 ns; each stays at the end
of its range (log entry 21). The two POLL timers count while a read of the POLL is in flight as they do in POLL_GAP.
In FATAL, and in a ring that is not ACTIVE, the fields of a completion ring stay as they are; that those of a FAULTED
ring do is log entry 40. The sampled marks are cleared with the period (R118, log entry 6). -/
def Obligations.ElapsedTimeCountsPeriods : Prop :=
  ∀ (s t : State) (credits : Nat), exec (.timebaseAdvance credits) s = .next t →
    (∀ e : Fin 4, (s.engine e).state = .running → (s.engine e).stop = none →
      (t.engine e).runTime = min ((s.engine e).runTime + 8) (s.engine e).budget)
    ∧ (∀ e : Fin 4, (s.engine e).state = .running → (s.engine e).path.phase = .readWait →
      (t.engine e).path.readTimer = min ((s.engine e).path.readTimer + 8) 100000)
    ∧ (∀ e : Fin 4, (s.engine e).state = .running → (s.engine e).path.phase = .waiting →
      (t.engine e).path.waitTimer = min ((s.engine e).path.waitTimer + 8) 1000000000)
    ∧ (∀ e : Fin 4, (s.engine e).state = .running → (s.engine e).path.phase = .pollGap →
      (t.engine e).path.pollLimitTimer = min ((s.engine e).path.pollLimitTimer + 8) 1000000000
      ∧ (t.engine e).path.pollSpacingTimer = min ((s.engine e).path.pollSpacingTimer + 8) 1000)
    ∧ (∀ (e : Fin 4) (x : Slot) (w : Width) (a : Addr) (d m : Word64) (limit : Nat),
      InProgress s e x (.poll w a d m limit) .readWait →
      (t.engine e).path.pollLimitTimer = min ((s.engine e).path.pollLimitTimer + 8) 1000000000
      ∧ (t.engine e).path.pollSpacingTimer = min ((s.engine e).path.pollSpacingTimer + 8) 1000)
    ∧ (∀ (r : Int) (n : Nat), s.tb.slew = .timed r n → 0 < n → t.tb.slew = .timed r (n - 8))
    ∧ (∀ e : Fin 4, (s.engine e).state = .bound → (t.engine e).fresh = false)
    ∧ (∀ (c : Fin 8) (r : Fin 16) (h n : Nat) (l : Bool), s.ctx c = .fetch r h n l →
      t.ctx c = .fetch r h (min (n + 8) 100000) l)
    ∧ (∀ (c : Fin 8) (r : Fin 16) (h : Nat) (x : Entry) (k v n : Nat) (l : Bool),
      s.ctx c = .effect r h x (.listFetch k v n l) →
      t.ctx c = .effect r h x (.listFetch k v (min (n + 8) 100000) l))
    ∧ (∀ (q : Fin 16) (n : Nat), s.hp.condition ≠ .fatal → (s.cq q).state = .active → (s.cq q).holdTimer = some n →
      (t.cq q).holdTimer = some (min (n + 8) 65535000))
    ∧ (s.hp.condition = .fatal → t.cu = s.cu)
    ∧ (∀ q : Fin 16, (s.cq q).state ≠ .active → t.cq q = s.cq q)
    ∧ ∀ l, t.input l = { s.input l with sampled := false }

/-- R15, R16, R17: a 64-bit read of TIME returns the value whole and changes nothing; a 32-bit read of the low half
returns its low 32 bits and loads the high 32 bits into the latch, which a read of the high half returns; a write to
TIME is ignored. The data returned stands in `answer` (log entry 3). -/
def Obligations.TimeRegister : Prop :=
  (∀ s : State, ∃ t, exec .timeLowRead s = .next t
    ∧ t = { s with hp := { s.hp with
        answer := BitVec.ofNat 64 (s.tb.value % 2 ^ 32), timeLatch := BitVec.ofNat 32 (s.tb.value / 2 ^ 32) } }
    ∧ t.registerRead 0x3C .dword = (BitVec.ofNat 32 (s.tb.value / 2 ^ 32)).setWidth 64)
  ∧ (∀ s : State, s.registerRead 0x38 .qword = BitVec.ofNat 64 s.tb.value
    ∧ s.registerRead 0x3C .dword = s.hp.timeLatch.setWidth 64)
  ∧ ∀ (s : State) (d : Word64), exec (.registerWrite 0x38 .qword d) s = .next s
    ∧ exec (.registerWrite 0x38 .dword d) s = .next s ∧ exec (.registerWrite 0x3C .dword d) s = .next s

/-- R8: SET TIME. Up to 2^63 − 1 the new value is set, with fraction 0, RUNNING and no slew, and one step event goes
to DSP and to LNU; above that it is refused with BAD_TIME. That the answer comes before the reactions is log entry 34.
What a completion counts for at the hand-over of its write is log entry 38. -/
def Obligations.SetTimeSetsTheClock : Prop :=
  ∀ (s : State) (c : Fin 8) (e : Entry), AdminWaits s c .setTime e → ∃ t, exec (.setTime c) s = .next t
    ∧ (bytesOf e 8 8 ≤ Config.maxTime →
        Answered { s with
            tb := { value := bytesOf e 8 8, fraction := 0, state := .running, slew := .none }
            dsp := { s.dsp with steps := s.dsp.steps ++ [{ kind := .set, before := s.tb.value, after := bytesOf e 8 8 }] }
            lnu := { s.lnu with steps := s.lnu.steps ++ [{ kind := .set, before := s.tb.value, after := bytesOf e 8 8 }] } }
          t c 0
          { status := .ok, time := s.tb.value, aux32 := s.tb.state.code, value := BitVec.ofNat 64 (bytesOf e 8 8) })
    ∧ (Config.maxTime < bytesOf e 8 8 →
        Answered s t c 0 { status := .badTime, time := s.tb.value, aux32 := s.tb.state.code, value := 0 })

/-- R9: STEP TIME, its checks in their order, and the step. That the answer comes before the reactions is log entry
34. What a completion counts for at the hand-over of its write is log entry 38. -/
def Obligations.StepTimeStepsTheClock : Prop :=
  ∀ (s : State) (c : Fin 8) (e : Entry) (d : Int), AdminWaits s c .stepTime e → d = (e.extractLsb' 64 64).toInt →
    ∃ t, exec (.stepTime c) s = .next t
      ∧ (s.tb.state = .unset →
          Answered s t c 0 { status := .timebaseUnset, time := s.tb.value, aux32 := s.tb.state.code })
      ∧ (s.tb.state = .running → 2 ^ 62 ≤ d.natAbs →
          Answered s t c 0 { status := .badField, time := s.tb.value, aux32 := s.tb.state.code })
      ∧ (s.tb.state = .running → d.natAbs < 2 ^ 62 → (s.tb.value + d < 0 ∨ 2 ^ 63 - 1 < s.tb.value + d) →
          Answered s t c 0 { status := .badTime, time := s.tb.value, aux32 := s.tb.state.code })
      ∧ (∀ v : Nat, s.tb.state = .running → d.natAbs < 2 ^ 62 → s.tb.value + d = v → v ≤ Config.maxTime → d ≠ 0 →
          Answered { s with
              tb := { s.tb with value := v }
              dsp := { s.dsp with steps := s.dsp.steps ++ [{ kind := .step, before := s.tb.value, after := v }] }
              lnu := { s.lnu with steps := s.lnu.steps ++ [{ kind := .step, before := s.tb.value, after := v }] } }
            t c 0 { status := .ok, time := s.tb.value, aux32 := s.tb.state.code, value := BitVec.ofNat 64 v })
      ∧ (s.tb.state = .running → d = 0 → s.tb.value ≤ Config.maxTime →
          Answered s t c 0
            { status := .ok, time := s.tb.value, aux32 := s.tb.state.code, value := BitVec.ofNat 64 s.tb.value })

/-- R10, R11, R12: SLEW TIME replaces the slew record whole or is refused; READ TIME STATE changes nothing. Both
report the slew that was in force, its remaining time in whole ms rounded up. A timed slew is in force for exactly the
periods in which its duration has not wholly elapsed, and SLEW_EXPIRED then removes it; before that it does nothing. A
command whose condition does not hold does nothing (log entry 8). -/
def Obligations.SlewsAreReportedAndRunOut : Prop :=
  (∀ (s : State) (c : Fin 8) (e : Entry) (rate : Int) (ms : Nat), AdminWaits s c .slewTime e →
    rate = (e.extractLsb' 64 32).toInt → ms = bytesOf e 12 2 → ∃ t, exec (.slewTime c) s = .next t
      ∧ (s.tb.state = .unset →
          Answered s t c 0 { status := .timebaseUnset, time := s.tb.value, aux32 := s.tb.state.code })
      ∧ (s.tb.state = .running → (rate < -500000 ∨ 500000 < rate) →
          Answered s t c 0 { status := .badField, time := s.tb.value, aux32 := s.tb.state.code })
      ∧ (s.tb.state = .running → -500000 ≤ rate → rate ≤ 500000 →
          Answered { s with tb := { s.tb with
              slew := if rate = 0 then .none else if ms = 0 then .endless rate else .timed rate (1000000 * ms) } }
            t c 0
            { status := .ok, time := s.tb.value, aux32 := s.tb.state.code
              value := slewData s.tb.slew.rate s.tb.slew.remainingMs }))
  ∧ (∀ (s : State) (c : Fin 8) (e : Entry), AdminWaits s c .readTimeState e →
    ∃ t, exec (.readTimeState c) s = .next t
      ∧ Answered s t c 0
          { status := .ok, time := s.tb.value, aux32 := s.tb.state.code
            value := slewData s.tb.slew.rate s.tb.slew.remainingMs })
  ∧ (∀ (r : Int) (n : Nat), 0 < n →
      (Slew.timed r n).rate = r ∧ n ≤ 1000000 * (Slew.timed r n).remainingMs
      ∧ 1000000 * (Slew.timed r n).remainingMs < n + 1000000)
  ∧ (Slew.none.rate = 0 ∧ Slew.none.remainingMs = 0
      ∧ ∀ r, (Slew.endless r).rate = r ∧ (Slew.endless r).remainingMs = 0)
  ∧ (∀ (t : Timebase) (r : Int) (n k : Nat), t.slew = .timed r n →
    (Timebase.advance^[k] t).slew.rate = if 8 * k < n then r else 0)
  ∧ (∀ (s : State) (r : Int), s.tb.slew = .timed r 0 →
    exec .slewExpired s = .next { s with tb := { s.tb with slew := .none } })
  ∧ ∀ (s : State) (r : Int) (n : Nat), s.tb.slew = .timed r (n + 1) → exec .slewExpired s = .next s

/-- R1, R2, R5, R10: value, fraction and slew record keep their ranges over every step, and the value never falls except by
SET TIME, STEP TIME or reset. -/
def Obligations.TimebaseLawIsKept : Prop :=
  (∀ s t : State, TimebaseLaw s → step s = .next t → TimebaseLaw t)
  ∧ ∀ (i : Instr) (s t : State), TimebaseLaw s → exec i s = .next t → (∀ c, i ≠ .setTime c) → (∀ c, i ≠ .stepTime c) →
    (∀ k, i ≠ .reset k) → s.tb.value ≤ t.tb.value

/-! ## Access windows (chapter 7) -/

/-- R141: an access is permitted if and only if some valid GRANT window that names its tenant and direction contains every
byte of it and no valid DENY window that names them contains any byte of it. -/
def Obligations.PermissionTest : Prop :=
  ∀ (s : State) (tenant : Nat) (d : Direction) (a : Addr) (len : Nat), WindowLaw s → (len = 4 ∨ len = 8) →
    (permitted s.wtb tenant d a len = true ↔
      (∃ (i : Fin 32) (w : Window), s.wtb[i] = some w ∧ w.kind = .grant ∧ w.tenants.getLsbD tenant = true
        ∧ (d = .read → w.read = true) ∧ (d = .write → w.write = true)
        ∧ ∀ b < len, w.base.toNat ≤ a.toNat + b ∧ a.toNat + b < w.base.toNat + w.size)
      ∧ ¬ ∃ (i : Fin 32) (w : Window), s.wtb[i] = some w ∧ w.kind = .deny ∧ w.tenants.getLsbD tenant = true
        ∧ (d = .read → w.read = true) ∧ (d = .write → w.write = true)
        ∧ ∃ b < len, w.base.toNat ≤ a.toNat + b ∧ a.toNat + b < w.base.toNat + w.size)

/-- R145, R146, R147: SET WINDOW and CLEAR WINDOW, accepted and refused, with the window as it stood before. What a
completion counts for at the hand-over of its write is log entry 38. -/
def Obligations.WindowCommands : Prop :=
  (∀ (s : State) (c : Fin 8) (e : Entry), AdminWaits s c .setWindow e → ∃ t, exec (.setWindow c) s = .next t
    ∧ (∀ (i : Fin 32) (w : Window), bytesOf e 1 1 = i.val → windowOf e = some w →
        Answered { s with wtb := s.wtb.set i (some w) } t c 0
          { status := .ok, time := s.tb.value, aux32 := windowCode s.wtb[i]
            value := (s.wtb[i].map Window.base).getD 0 })
    ∧ (∀ i : Fin 32, bytesOf e 1 1 = i.val → windowOf e = none →
        Answered s t c 0
          { status := .badField, time := s.tb.value, aux32 := windowCode s.wtb[i]
            value := (s.wtb[i].map Window.base).getD 0 })
    ∧ (32 ≤ bytesOf e 1 1 → Answered s t c 0 { status := .badField, time := s.tb.value }))
  ∧ (∀ (s : State) (c : Fin 8) (e : Entry), AdminWaits s c .clearWindow e → ∃ t, exec (.clearWindow c) s = .next t
    ∧ (∀ i : Fin 32, bytesOf e 1 1 = i.val →
        Answered { s with wtb := s.wtb.set i none } t c 0
          { status := .ok, time := s.tb.value, aux32 := windowCode s.wtb[i]
            value := (s.wtb[i].map Window.base).getD 0 })
    ∧ (32 ≤ bytesOf e 1 1 → Answered s t c 0 { status := .badField, time := s.tb.value }))
  ∧ ∀ (e : Entry) (w : Window), windowOf e = some w ↔
      ((bytesOf e 2 1 = 1 ∧ w.kind = .grant) ∨ (bytesOf e 2 1 = 2 ∧ w.kind = .deny))
      ∧ (∃ k, 6 ≤ k ∧ k ≤ 48 ∧ bytesOf e 16 8 = 2 ^ k) ∧ w.size = bytesOf e 16 8
      ∧ w.base = e.extractLsb' 64 64 ∧ w.base.toNat % w.size = 0
      ∧ w.tenants = e.extractLsb' 32 16 ∧ w.tenants.getLsbD 0 = false
      ∧ bytesOf e 3 1 ≤ 3 ∧ w.read = (bytesOf e 3 1).testBit 0 ∧ w.write = (bytesOf e 3 1).testBit 1

/-- R139: every valid window keeps its shape over every step, and a naturally aligned access lies wholly inside or wholly
outside such a window. -/
def Obligations.WindowLawIsKept : Prop :=
  (∀ s t : State, WindowLaw s → step s = .next t → WindowLaw t)
  ∧ ∀ (s : State) (w : Window) (a : Addr) (len : Nat), WindowLaw s → w ∈ validWindows s.wtb → (len = 4 ∨ len = 8) →
      a.toNat % len = 0 → w.coversAny a len = w.coversAll a len

/-! ## Action records and the action store (chapters 2 and 3) -/

/-- R21, R22: the first due of an ARM in each mode. ALIGNED gives the smallest time from the arm sample plus the lead on
that leaves the phase. R80: the next due is the smallest due + k × period, k at least 1, strictly after the end sample. -/
def Obligations.FirstAndNextDue : Prop :=
  (∀ phase period sample lead : Nat, phase < period →
    sample + 1000 * lead ≤ alignedFrom (sample + 1000 * lead) phase period
    ∧ alignedFrom (sample + 1000 * lead) phase period % period = phase
    ∧ (∀ u, sample + 1000 * lead ≤ u → u % period = phase → alignedFrom (sample + 1000 * lead) phase period ≤ u)
    ∧ firstDue? .aligned phase period sample lead
        = (if alignedFrom (sample + 1000 * lead) phase period ≤ 2 ^ 63 - 1
            then some (alignedFrom (sample + 1000 * lead) phase period) else none))
  ∧ (∀ due period sample lead : Nat,
      firstDue? .absolute due period sample lead = if due ≤ 2 ^ 63 - 1 then some due else none)
  ∧ (∀ offset period sample lead : Nat,
      firstDue? .relative offset period sample lead
        = if sample + offset ≤ 2 ^ 63 - 1 then some (sample + offset) else none)
  ∧ ∀ due period endSample : Nat, 0 < period →
    1 ≤ nextStep due period endSample ∧ endSample < due + nextStep due period endSample * period
    ∧ ∀ k, 1 ≤ k → endSample < due + k * period → nextStep due period endSample ≤ k

/-- R33 to R36, R210: a 32-byte record holds an operation exactly when it is the record that the layout gives that
operation, and the operation's address, data, mask, limit and length keep their rules: every byte has the value that section
11.2.3 gives it. R211: a completion entry has its fields where section 11.3 puts them, with the codes of section 11.5, and a
value field has its packed counts, or rate and time, where its table puts them. -/
def Obligations.OperationRecordsRoundTrip : Prop :=
  (∀ (r : Record) (o : Op), opOf r = some o ↔ (o.valid = true ∧ r = encodeOp o))
  ∧ (∀ (r : Record) (o : Op), opOf r = some o ↔ RecordHolds r o)
  ∧ (∀ (c : Completion) (lap : Bool) (lost : Nat) (r : Record), r = c.encode lap lost →
    (r.extractLsb' 0 3).toNat = (match c.kind with
      | .request => 1
      | .fire => 2
      | .edge => 3
      | .notice => 4)
    ∧ r.extractLsb' 3 4 = 0 ∧ r.getLsbD 7 = lap ∧ bytesOf r 1 1 = c.status.code ∧ bytesOf r 2 1 = c.source % 2 ^ 8
    ∧ r.getLsbD 24 = c.late ∧ r.getLsbD 25 = c.final ∧ r.getLsbD 26 = c.cancelled ∧ r.getLsbD 27 = decide (lost ≠ 0)
    ∧ (r.extractLsb' 28 4).toNat = c.opIndex % 2 ^ 4 ∧ bytesOf r 4 2 = lost % 2 ^ 16 ∧ bytesOf r 6 2 = c.aux16 % 2 ^ 16
    ∧ r.extractLsb' 64 32 = c.tag ∧ bytesOf r 12 4 = c.aux32 % 2 ^ 32 ∧ bytesOf r 16 8 = c.time % 2 ^ 64
    ∧ r.extractLsb' 192 64 = c.value)
  ∧ (([.ok, .malformed, .notPermitted, .badField, .badTime, .timebaseUnset, .noRing, .alreadyExists, .inUse, .wrongState,
        .duplicateTag, .unknownTag, .storeFull, .quotaExceeded, .listFetchError, .tooLate, .cancelDeferred] : List Status).map
      Status.code = List.range' 0x00 17
    ∧ ([.accessDenied, .lineDenied, .busError, .pollExpired, .overrun, .lateSkipped, .lateAborted, .gateClosed] :
        List Status).map Status.code = List.range' 0x20 8
    ∧ ([.badPost, .badRelease, .sqFaulted, .sqRetired, .cqFaulted] : List Status).map Status.code = List.range' 0x40 5
    ∧ (∀ st : Status, st.isFault = true ↔ 0x20 ≤ st.code ∧ st.code ≤ 0x24)
    ∧ ([.pending, .armed, .awaiting, .listening, .staged, .firing] : List SlotState).map SlotState.code = List.range' 1 6
    ∧ ([.unset, .running] : List TimebaseState).map TimebaseState.code = [1, 2]
    ∧ ([.absent, .active, .faulted, .deleting] : List SqState).map SqState.code = [0, 1, 2, 3]
    ∧ ([.absent, .active, .faulted] : List CqState).map CqState.code = [0, 1, 2]
    ∧ ([.low, .high] : List Level).map Level.code = [1, 2]
    ∧ windowCode none = 0 ∧ ∀ w, windowCode (some w) = if w.kind = .grant then 1 else 2)
  ∧ ((∀ low high, (packValue low 16 high).extractLsb' 0 16 = BitVec.ofNat 16 low
      ∧ (packValue low 16 high).extractLsb' 16 48 = BitVec.ofNat 48 high)
    ∧ (∀ low high, (packValue low 32 high).extractLsb' 0 32 = BitVec.ofNat 32 low
      ∧ (packValue low 32 high).extractLsb' 32 32 = BitVec.ofNat 32 high)
    ∧ ∀ rate ms, (slewData rate ms).extractLsb' 0 32 = BitVec.ofInt 32 rate
      ∧ (slewData rate ms).extractLsb' 32 16 = BitVec.ofNat 16 ms ∧ (slewData rate ms).extractLsb' 48 16 = 0)

/-- R49, R50, R53: an ARM that passes every check takes a FREE slot. Inline and ungated, it enters the firing schedule
as ARMED with its first due; gated, the gate calendar as AWAITING with its open time; with a host list it is PENDING
and the list is read. The inline ones are answered at once. One transaction for the list is log entry 10, the number 0
of a PENDING slot log entry 26, and the OK of an inline ARM in the placing step log entry 30. R41: the slot holds the
fields of the entry (section 11.2.2), zero counters and clear marks. Section 11.2.3: an inline slot or the bytes of a
list hold the records. R48, R65, R66, R122: an action that enters the firing schedule or the gate calendar takes a new
number and the place that its time and that number give it. What a completion counts for at the hand-over of its write
is log entry 38. -/
def Obligations.ArmTakesASlot : Prop :=
  (∀ (s : State) (c : Fin 8) (r : Fin 16) (e : Entry) (p : ArmParams) (due : Nat) (ops : List Op),
    TenantWaits s c .arm r e → StoreLaw s → s.tb.state = .running → (armFieldsOf e).params? = some p →
    firstDue? p.mode (armFieldsOf e).dueValue (armFieldsOf e).period s.tb.value s.dsp.lead = some due →
    (∀ g, p.gate = some g → due + g.listen ≤ 2 ^ 63 - 1 ∧ due + g.listen + g.delay ≤ 2 ^ 63 - 1) →
    s.checkRecords (s.sq r).tenant (armFieldsOf e).inlineRecords = .ok ops →
    s.tagLookup r (armFieldsOf e).tag = none → s.holdings (s.sq r).tenant < s.quota (s.sq r).tenant →
    s.ast.slots.length < 1024 →
    ∃ t id, exec (.arm c) s = .next t ∧ id < 1024 ∧ s.slot? id = none
      ∧ ((armFieldsOf e).opCount < 3 → p.gate = none →
          Answered (s.enterSchedule id (newSlot (armFieldsOf e) p r (s.sq r).tenant due ops) due) t c r
            { status := .ok, time := s.tb.value, tag := (armFieldsOf e).tag, aux32 := 2, value := BitVec.ofNat 64 due })
      ∧ ((armFieldsOf e).opCount < 3 → p.gate.isSome = true →
          Answered (s.enterCalendar id (newSlot (armFieldsOf e) p r (s.sq r).tenant due ops) .awaiting due) t c r
            { status := .ok, time := s.tb.value, tag := (armFieldsOf e).tag, aux32 := 3, value := BitVec.ofNat 64 due })
      ∧ (3 ≤ (armFieldsOf e).opCount →
          t.slot? id = some (newSlot (armFieldsOf e) p r (s.sq r).tenant due ops)
          ∧ (newSlot (armFieldsOf e) p r (s.sq r).tenant due ops).state = .pending
          ∧ (∀ k ≠ id, t.slot? k = s.slot? k)
          ∧ (∀ h, s.ctx c = .effect r h e .waiting →
              t.rqe = { s.rqe with
                ctxs := s.rqe.ctxs.set c (.effect r h e (.listFetch id s.tb.value 0 s.hp.busMaster)) })
          ∧ t.ast.quotas = s.ast.quotas ∧ t.ast.seq = s.ast.seq ∧ t.cu = s.cu ∧ t.dsp = s.dsp
          ∧ t.lnu = s.lnu ∧ t.tb = s.tb ∧ t.wtb = s.wtb
          ∧ t.hp = (if s.hp.busMaster then
              { s.hp with bus := s.hp.bus ++
                [BusTxn.listRead c (armFieldsOf e).listAddr (32 * (armFieldsOf e).opCount)] } else s.hp)))
  ∧ (∀ (e : Entry) (p : ArmParams) (ring : Fin 16) (tenant due : Nat) (ops : List Op),
    newSlot (armFieldsOf e) p ring tenant due ops =
      { state := if 3 ≤ bytesOf e 31 1 then .pending else if p.gate.isSome then .awaiting else .armed
        ring := ring, tenant := tenant, tag := e.extractLsb' 32 32, period := bytesOf e 16 8, count := bytesOf e 24 4
        tolerance := bytesOf e 28 2, latePolicy := p.latePolicy, faultPolicy := p.faultPolicy
        completionMode := p.completionMode
        gate := p.gate.map (fun g =>
          { line := g.line, edge := g.edge, delay := g.delay, closePolicy := g.closePolicy, openTime := due
            closeTime := due + g.listen })
        ops := ops, due := due, ended := 0, missed := 0, capture := 0, endRequested := false, used := 0
        lateCarry := false, seq := 0 })
  ∧ (∀ e : Entry, (armFieldsOf e).tag = e.extractLsb' 32 32 ∧ (armFieldsOf e).dueValue = bytesOf e 8 8
      ∧ (armFieldsOf e).period = bytesOf e 16 8 ∧ (armFieldsOf e).opCount = bytesOf e 31 1
      ∧ (armFieldsOf e).listAddr = e.extractLsb' 256 64
      ∧ (armFieldsOf e).inlineRecords = (if bytesOf e 31 1 = 1 then [e.extractLsb' 512 256]
          else if bytesOf e 31 1 = 2 then [e.extractLsb' 512 256, e.extractLsb' 768 256] else []))
  ∧ (∀ (bytes : ListBytes) (n : Nat), (listRecords bytes n).length = n
      ∧ ∀ k < n, (listRecords bytes n)[k]? = some (bytes.extractLsb' (256 * k) 256))
  ∧ (∀ (s u : State) (id : Nat) (x : Slot) (due : Nat) (h : TimedEntry), u = s.enterSchedule id x due →
    h = { slot := id, time := due, seq := s.ast.seq } →
    u.slot? id = some { x with state := .armed, due := due, seq := s.ast.seq } ∧ (∀ k ≠ id, u.slot? k = s.slot? k)
    ∧ (∀ y, y ∈ u.dsp.schedule ↔ y = h ∨ y ∈ s.dsp.schedule) ∧ s.dsp.schedule.Sublist u.dsp.schedule
    ∧ (s.dsp.schedule.Pairwise (fun a b => b.before a = false) → u.dsp.schedule.Pairwise (fun a b => b.before a = false))
    ∧ u = { s with
        ast := { s.ast with slots := u.ast.slots, seq := s.ast.seq + 1 }
        dsp := { s.dsp with schedule := u.dsp.schedule } })
  ∧ ∀ (s u : State) (id : Nat) (x : Slot) (st : SlotState) (key : Nat) (h : TimedEntry), u = s.enterCalendar id x st key →
    h = { slot := id, time := key, seq := s.ast.seq } →
    u.slot? id = some { x with state := st, seq := s.ast.seq } ∧ (∀ k ≠ id, u.slot? k = s.slot? k)
    ∧ (∀ y, y ∈ u.lnu.calendar ↔ y = h ∨ y ∈ s.lnu.calendar) ∧ s.lnu.calendar.Sublist u.lnu.calendar
    ∧ (s.lnu.calendar.Pairwise (fun a b => b.before a = false) → u.lnu.calendar.Pairwise (fun a b => b.before a = false))
    ∧ u = { s with
        ast := { s.ast with slots := u.ast.slots, seq := s.ast.seq + 1 }
        lnu := { s.lnu with calendar := u.lnu.calendar } }

/-- R18, R20, R37, R40, R49: an ARM that fails a check is refused with the first status in the order of the checks,
carries the arm sample, and changes nothing but its own request. On a DELETING ring it is refused with WRONG_STATE
before any other check, and the ring retires with it when it holds no slot (R170). R20 to R32: what step 2 of R37
checks in the fields of the entry. R33 to R39: all records are checked in their order before any permission is, and
the first record or the first operation that fails gives the status and the operation index. What a completion counts
for at the hand-over of its write is log entry 38. -/
def Obligations.ArmRefusedInOrder : Prop :=
  (∀ (s : State) (c : Fin 8) (r : Fin 16) (e : Entry), s.hp.condition = .ready →
    (s.ctx c).request? = some (r, e, .waiting) → reqKindOf (kindCode e) = some .arm → (s.sq r).state = .deleting →
    (s.cq (s.sq r).cq).state = .active →
    ∃ t v, exec (.arm c) s = .next t
      ∧ Answered s v c r { status := .wrongState, time := s.tb.value, tag := (armFieldsOf e).tag } ∧ RetiresIfEmpty v t r)
  ∧ (∀ (s : State) (c : Fin 8) (r : Fin 16) (e : Entry), TenantWaits s c .arm r e →
    ∃ t, exec (.arm c) s = .next t
      ∧ (s.tb.state = .unset →
          Answered s t c r { status := .timebaseUnset, time := s.tb.value, tag := (armFieldsOf e).tag })
      ∧ (s.tb.state = .running → (armFieldsOf e).params? = none →
          Answered s t c r { status := .badField, time := s.tb.value, tag := (armFieldsOf e).tag })
      ∧ ∀ p, s.tb.state = .running → (armFieldsOf e).params? = some p →
        (firstDue? p.mode (armFieldsOf e).dueValue (armFieldsOf e).period s.tb.value s.dsp.lead = none →
          Answered s t c r { status := .badTime, time := s.tb.value, tag := (armFieldsOf e).tag })
        ∧ ∀ due,
          firstDue? p.mode (armFieldsOf e).dueValue (armFieldsOf e).period s.tb.value s.dsp.lead = some due →
          (∀ g, p.gate = some g → (2 ^ 63 - 1 < due + g.listen ∨ 2 ^ 63 - 1 < due + g.listen + g.delay) →
            Answered s t c r { status := .badTime, time := s.tb.value, tag := (armFieldsOf e).tag })
          ∧ (p.gate.all (gateTimesOk due) = true →
            (∀ st i, s.checkRecords (s.sq r).tenant (armFieldsOf e).inlineRecords = .error (st, i) →
              Answered s t c r { status := st, time := s.tb.value, tag := (armFieldsOf e).tag, opIndex := i })
            ∧ ∀ ops, s.checkRecords (s.sq r).tenant (armFieldsOf e).inlineRecords = .ok ops →
              ((s.tagLookup r (armFieldsOf e).tag).isSome = true →
                Answered s t c r { status := .duplicateTag, time := s.tb.value, tag := (armFieldsOf e).tag })
              ∧ (s.tagLookup r (armFieldsOf e).tag = none → s.quota (s.sq r).tenant ≤ s.holdings (s.sq r).tenant →
                Answered s t c r { status := .quotaExceeded, time := s.tb.value, tag := (armFieldsOf e).tag })
              ∧ (s.tagLookup r (armFieldsOf e).tag = none → s.holdings (s.sq r).tenant < s.quota (s.sq r).tenant →
                1024 ≤ s.ast.slots.length →
                Answered s t c r { status := .storeFull, time := s.tb.value, tag := (armFieldsOf e).tag })))
  ∧ (∀ (e : Entry) (p : ArmParams), (armFieldsOf e).params? = some p ↔ ArmFieldsHold e p)
  ∧ ∀ (s : State) (tenant : Nat) (records : List Record),
    (∀ ops : List Op, s.checkRecords tenant records = .ok ops ↔
      records.map opOf = ops.map some ∧ ∀ o ∈ ops, OpAllowed s tenant o)
    ∧ (∀ i, s.checkRecords tenant records = .error (.badField, i) ↔
      ∃ k r, i = k + 1 ∧ records[k]? = some r ∧ opOf r = none
        ∧ ∀ j < k, ∀ y, records[j]? = some y → (opOf y).isSome = true)
    ∧ ∀ st i, st ≠ .badField → (s.checkRecords tenant records = .error (st, i) ↔
      ∃ (ops : List Op) (k : Nat) (o : Op), records.map opOf = ops.map some ∧ i = k + 1 ∧ ops[k]? = some o ∧ ¬ OpAllowed s tenant o
        ∧ st = deniedStatus o ∧ ∀ j < k, ∀ y, ops[j]? = some y → OpAllowed s tenant y)

/-- R51, R52: the end of a list fetch. A failure, a timeout at 100 µs, a DELETING ring or a record that is refused
frees the slot and refuses the ARM; otherwise the action is placed with the times of the arm sample. A fetch that HP
has answered at once (R199) is never on the link, so that neither data nor a timeout ends it. A timed-out read noted
as stale is log entry 4, and the OK in the placing step log entry 30. A command whose condition does not hold does
nothing (log entry 8). R44: a slot that is freed leaves every place that held it. What a completion counts for at the
hand-over of its write is log entry 38. -/
def Obligations.ListFetchEnds : Prop :=
  (∀ (s : State) (c : Fin 8) (r : Fin 16) (h : Nat) (e : Entry) (id sample timer : Nat) (l : Bool) (x : Slot),
    s.hp.condition = .ready → s.ctx c = .effect r h e (.listFetch id sample timer l) → s.slot? id = some x →
    (s.cq (s.sq r).cq).state = .active →
    ((s.sq r).state ≠ .deleting → ∃ t, exec (.listFetchDone c .failed) s = .next t
      ∧ Answered (s.freeSlot id) t c r { status := .listFetchError, time := sample, tag := (armFieldsOf e).tag })
    ∧ ((s.sq r).state ≠ .deleting → l = true → 100000 ≤ timer → ∃ t, exec (.listFetchTimeout c) s = .next t
      ∧ Answered ((s.noteStale (.list c)).freeSlot id) t c r
          { status := .listFetchError, time := sample, tag := (armFieldsOf e).tag })
    ∧ (timer < 100000 → exec (.listFetchTimeout c) s = .next s)
    ∧ (l = false → exec (.listFetchTimeout c) s = .next s ∧ ∀ bytes, exec (.listFetchDone c (.data bytes)) s = .next s)
    ∧ ((s.sq r).state ≠ .deleting → l = true → ∀ bytes : ListBytes, ∃ t, exec (.listFetchDone c (.data bytes)) s = .next t
      ∧ (∀ st i, s.checkRecords x.tenant (listRecords bytes (armFieldsOf e).opCount) = .error (st, i) →
          Answered (s.freeSlot id) t c r { status := st, time := sample, tag := (armFieldsOf e).tag, opIndex := i })
      ∧ (∀ ops, s.checkRecords x.tenant (listRecords bytes (armFieldsOf e).opCount) = .ok ops → x.gate = none →
          Answered (s.enterSchedule id { x with ops := ops } x.due) t c r
            { status := .ok, time := sample, tag := x.tag, aux32 := 2, value := BitVec.ofNat 64 x.due })
      ∧ (∀ ops g, s.checkRecords x.tenant (listRecords bytes (armFieldsOf e).opCount) = .ok ops → x.gate = some g →
          Answered (s.enterCalendar id { x with ops := ops } .awaiting g.openTime) t c r
            { status := .ok, time := sample, tag := x.tag, aux32 := 3, value := BitVec.ofNat 64 x.due }))
    ∧ ((s.sq r).state = .deleting →
      (∃ t v, exec (.listFetchDone c .failed) s = .next t
        ∧ Answered (s.freeSlot id) v c r { status := .listFetchError, time := sample, tag := (armFieldsOf e).tag }
        ∧ RetiresIfEmpty v t r)
      ∧ (l = true → 100000 ≤ timer → ∃ t v, exec (.listFetchTimeout c) s = .next t
        ∧ Answered ((s.noteStale (.list c)).freeSlot id) v c r
            { status := .listFetchError, time := sample, tag := (armFieldsOf e).tag }
        ∧ RetiresIfEmpty v t r)
      ∧ (l = true → ∀ bytes, ∃ t v, exec (.listFetchDone c (.data bytes)) s = .next t
        ∧ Answered (s.freeSlot id) v c r { status := .wrongState, time := sample, tag := (armFieldsOf e).tag }
        ∧ RetiresIfEmpty v t r)))
  ∧ ∀ (s u : State) (id : Nat), u = s.freeSlot id →
    u.slot? id = none ∧ (∀ k ≠ id, u.slot? k = s.slot? k)
    ∧ u.dsp.schedule = s.dsp.schedule.filter (fun y => y.slot != id)
    ∧ u.lnu.calendar = s.lnu.calendar.filter (fun y => y.slot != id)
    ∧ (∀ l : Fin 4, u.lnu.listen[l] = s.lnu.listen[l].filter (fun k => k != id))
    ∧ u = { s with
        ast := { s.ast with slots := u.ast.slots }
        dsp := { s.dsp with schedule := u.dsp.schedule }
        lnu := { s.lnu with calendar := u.lnu.calendar, listen := u.lnu.listen } }

/-- R54: CANCEL, by the state of the slot that its tag names. That the answer comes before the FINAL of an instance
found running is log entry 30. What a completion counts for at the hand-over of its write is log entry 38. -/
def Obligations.CancelByStateFound : Prop :=
  ∀ (s : State) (c : Fin 8) (r : Fin 16) (e : Entry), TenantWaits s c .cancel r e → ∃ t, exec (.cancel c) s = .next t
    ∧ (s.tagLookup r (e.extractLsb' 32 32) = none →
        Answered s t c r { status := .unknownTag, time := s.tb.value, tag := e.extractLsb' 32 32 })
    ∧ ∀ id x, s.tagLookup r (e.extractLsb' 32 32) = some (id, x) →
      ((x.state = .armed ∨ x.state = .awaiting ∨ x.state = .listening) →
        Answered (s.freeSlot id) t c r
          { status := .ok, time := s.tb.value, tag := e.extractLsb' 32 32, aux32 := x.state.code
            value := BitVec.ofNat 64 (match x.state, x.gate with
              | .awaiting, some g => g.openTime
              | .listening, some g => g.closeTime
              | _, _ => x.due) })
      ∧ ((x.state = .staged ∨ x.state = .firing) → x.period ≠ 0 →
        Answered (s.setSlot id { x with endRequested := true }) t c r
          { status := .cancelDeferred, time := s.tb.value, tag := e.extractLsb' 32 32, aux32 := x.state.code
            value := BitVec.ofNat 64 x.due })
      ∧ ((x.state = .staged ∨ x.state = .firing) → x.period = 0 →
        Answered s t c r
          { status := .tooLate, time := s.tb.value, tag := e.extractLsb' 32 32, aux32 := x.state.code
            value := BitVec.ofNat 64 x.due })

/-- R57: CANCEL ALL treats every slot of the ring by the state in which it is found, leaves the slots of other rings,
takes what it removes out of every place (firing schedule, gate calendar, listen lists), where the rest keeps its
order, changes nothing else, and reports the three counts. What a completion counts for at the hand-over of its write
is log entry 38. -/
def Obligations.CancelAllSweepsTheRing : Prop :=
  ∀ (s : State) (c : Fin 8) (r : Fin 16) (e : Entry) (removed : Nat → Prop), TenantWaits s c .cancelAll r e → StoreLaw s →
    (∀ id, removed id ↔ ∃ x, s.slot? id = some x ∧ x.ring = r
      ∧ (x.state = .armed ∨ x.state = .awaiting ∨ x.state = .listening)) →
    ∃ t u, exec (.cancelAll c) s = .next t
      ∧ Answered u t c r
          { status := .ok, time := s.tb.value
            aux32 := s.ast.slots.countP (fun p => decide (p.2.ring = r
              ∧ (p.2.state = .armed ∨ p.2.state = .awaiting ∨ p.2.state = .listening)))
            value := packValue
              (s.ast.slots.countP (fun p => decide (p.2.ring = r
                ∧ (p.2.state = .staged ∨ p.2.state = .firing) ∧ p.2.period ≠ 0))) 32
              (s.ast.slots.countP (fun p => decide (p.2.ring = r
                ∧ (p.2.state = .staged ∨ p.2.state = .firing) ∧ p.2.period = 0))) }
      ∧ (∀ id, s.slot? id = none → u.slot? id = none)
      ∧ (∀ id x, s.slot? id = some x →
          u.slot? id =
            if x.ring = r ∧ (x.state = .armed ∨ x.state = .awaiting ∨ x.state = .listening) then none
            else if x.ring = r ∧ (x.state = .staged ∨ x.state = .firing) ∧ x.period ≠ 0 then
              some { x with endRequested := true }
            else some x)
      ∧ u.dsp.schedule.Sublist s.dsp.schedule
      ∧ (∀ y, y ∈ u.dsp.schedule ↔ y ∈ s.dsp.schedule ∧ ¬ removed y.slot)
      ∧ u.lnu.calendar.Sublist s.lnu.calendar
      ∧ (∀ y, y ∈ u.lnu.calendar ↔ y ∈ s.lnu.calendar ∧ ¬ removed y.slot)
      ∧ (∀ l : Fin 4, u.lnu.listen[l].Sublist s.lnu.listen[l]
          ∧ ∀ id, id ∈ u.lnu.listen[l] ↔ id ∈ s.lnu.listen[l] ∧ ¬ removed id)
      ∧ u.pending = s.pending ∧ u.hp = s.hp ∧ u.rqe = s.rqe ∧ u.tb = s.tb ∧ u.wtb = s.wtb ∧ u.cu = s.cu
      ∧ u.ast.quotas = s.ast.quotas ∧ u.ast.seq = s.ast.seq
      ∧ u.dsp = { s.dsp with schedule := u.dsp.schedule }
      ∧ u.lnu = { s.lnu with calendar := u.lnu.calendar, listen := u.lnu.listen }

/-- R58, R59: AMEND, its checks in their order, and the re-entry of the action under a new entry sequence number. The
zeros reported for an object that does not exist are log entry 9. Step 1 of R58 over the fields of the entry (section
11.2.4): due mode ABSOLUTE or RELATIVE, present flags 0 or 1, an absent tolerance or period 0, a present period in
range. What a completion counts for at the hand-over of its write is log entry 38. -/
def Obligations.AmendMovesAnArmedAction : Prop :=
  (∀ (s : State) (c : Fin 8) (r : Fin 16) (e : Entry) (f : AmendFields), TenantWaits s c .amend r e →
    f = amendFieldsOf e → ∃ t, exec (.amend c) s = .next t
      ∧ (f.shapeOk = false → Answered s t c r { status := .badField, time := s.tb.value, tag := f.tag })
      ∧ (f.shapeOk = true → s.tagLookup r f.tag = none →
          Answered s t c r { status := .unknownTag, time := s.tb.value, tag := f.tag })
      ∧ ∀ id x, f.shapeOk = true → s.tagLookup r f.tag = some (id, x) →
        ((x.state = .staged ∨ x.state = .firing) →
          Answered s t c r
            { status := .tooLate, time := s.tb.value, tag := f.tag, aux32 := x.state.code
              value := BitVec.ofNat 64 x.due })
        ∧ ((x.state = .awaiting ∨ x.state = .listening) →
          Answered s t c r { status := .wrongState, time := s.tb.value, tag := f.tag, aux32 := x.state.code })
        ∧ (x.state = .armed → f.periodPresent = 1 → x.period = 0 →
          Answered s t c r { status := .badField, time := s.tb.value, tag := f.tag, aux32 := 2 })
        ∧ (x.state = .armed → (f.periodPresent = 1 → x.period ≠ 0) → 2 ^ 63 - 1 < f.newDue s.tb.value →
          Answered s t c r { status := .badTime, time := s.tb.value, tag := f.tag, aux32 := 2 })
        ∧ (x.state = .armed → (f.periodPresent = 1 → x.period ≠ 0) → f.newDue s.tb.value ≤ 2 ^ 63 - 1 →
          Answered
            ((s.unplace (fun k => k == id)).enterSchedule id
              { x with
                tolerance := if f.tolerancePresent = 1 then f.tolerance else x.tolerance
                period := if f.periodPresent = 1 then f.period else x.period }
              (f.newDue s.tb.value)) t c r
            { status := .ok, time := s.tb.value, tag := f.tag, aux32 := 2
              value := BitVec.ofNat 64 (f.newDue s.tb.value) }))
  ∧ ∀ (e : Entry) (f : AmendFields), f = amendFieldsOf e →
    f.tag = e.extractLsb' 32 32 ∧ f.tolerancePresent = bytesOf e 2 1 ∧ f.tolerance = bytesOf e 16 2
    ∧ f.periodPresent = bytesOf e 3 1 ∧ f.period = bytesOf e 24 8
    ∧ (∀ sample, (bytesOf e 1 1 = 1 → f.newDue sample = bytesOf e 8 8)
        ∧ (bytesOf e 1 1 = 2 → f.newDue sample = sample + bytesOf e 8 8))
    ∧ (f.shapeOk = true ↔ (bytesOf e 1 1 = 1 ∨ bytesOf e 1 1 = 2) ∧ bytesOf e 2 1 ≤ 1 ∧ bytesOf e 3 1 ≤ 1
        ∧ (bytesOf e 2 1 = 0 → bytesOf e 16 2 = 0) ∧ (bytesOf e 3 1 = 0 → bytesOf e 24 8 = 0)
        ∧ (bytesOf e 3 1 = 1 → 1000 ≤ bytesOf e 24 8 ∧ bytesOf e 24 8 ≤ 2 ^ 48))

/-- R60: QUERY reports the slot that its tag names and changes nothing. R45: the tag index of a ring holds exactly its
occupied slots, each under its tag. What a completion counts for at the hand-over of its write is log entry 38. -/
def Obligations.QueryReportsTheSlot : Prop :=
  (∀ (s : State) (c : Fin 8) (r : Fin 16) (e : Entry), TenantWaits s c .query r e → ∃ t, exec (.query c) s = .next t
    ∧ (s.tagLookup r (e.extractLsb' 32 32) = none →
        Answered s t c r { status := .unknownTag, time := s.tb.value, tag := e.extractLsb' 32 32 })
    ∧ ∀ id x, s.tagLookup r (e.extractLsb' 32 32) = some (id, x) →
        Answered s t c r
          { status := .ok, time := s.tb.value, tag := e.extractLsb' 32 32, aux32 := x.ended, opIndex := x.state.code
            value := BitVec.ofNat 64 (match x.state, x.gate with
              | .awaiting, some g => g.openTime
              | .listening, some g => g.closeTime
              | _, _ => x.due) })
  ∧ ∀ (s : State) (r : Fin 16) (tag : Word32) (id : Nat) (x : Slot), StoreLaw s →
    (s.tagLookup r tag = some (id, x) ↔ s.slot? id = some x ∧ x.ring = r ∧ x.tag = tag)

/-- R47: SET TENANT LIMITS, its checks in their order; the completion reports the holdings and the quota in force. The
zeros reported for an object that does not exist are log entry 9. R46: the holdings are the number of the tenant's
occupied slots. What a completion counts for at the hand-over of its write is log entry 38. -/
def Obligations.SetTenantLimitsChecksHoldings : Prop :=
  (∀ (s : State) (c : Fin 8) (e : Entry), AdminWaits s c .setTenantLimits e →
    ∃ t, exec (.setTenantLimits c) s = .next t
      ∧ ((bytesOf e 1 1 = 0 ∨ 15 < bytesOf e 1 1) → Answered s t c 0 { status := .badField, time := s.tb.value })
      ∧ ∀ n : Fin 16, n ≠ 0 → bytesOf e 1 1 = n.val →
        (1024 < bytesOf e 8 2 →
          Answered s t c 0
            { status := .badField, time := s.tb.value, aux32 := s.holdings n.val
              value := BitVec.ofNat 64 s.ast.quotas[n] })
        ∧ (bytesOf e 8 2 ≤ 1024 → bytesOf e 8 2 < s.holdings n.val →
          Answered s t c 0
            { status := .inUse, time := s.tb.value, aux32 := s.holdings n.val, value := BitVec.ofNat 64 s.ast.quotas[n] })
        ∧ (bytesOf e 8 2 ≤ 1024 → s.holdings n.val ≤ bytesOf e 8 2 →
          Answered { s with ast := { s.ast with quotas := s.ast.quotas.set n (bytesOf e 8 2) } } t c 0
            { status := .ok, time := s.tb.value, aux32 := s.holdings n.val, value := BitVec.ofNat 64 (bytesOf e 8 2) }))
  ∧ ∀ (s : State) (n : Fin 16), s.quota n.val = s.ast.quotas[n]
    ∧ (StoreLaw s → s.holdings n.val = (List.range 1024).countP (fun id => match s.slot? id with
      | some x => x.tenant == n.val
      | none => false))

/-- R41, R45, R46: over every step the occupied slots stay within the 1024, no ring holds a tag twice, and no tenant holds
more slots than its quota. -/
def Obligations.StoreLawIsKept : Prop :=
  ∀ s t : State, StoreLaw s → step s = .next t → StoreLaw t

/-- R42, R65, R122, R123: over every step each occupied slot stays in exactly the one place that its state names, under its
own due or key time and its own number, and a FREE slot stays in none. -/
def Obligations.PlacementLawIsKept : Prop :=
  ∀ s t : State, StoreLaw s → PlacementLaw s → step s = .next t → PlacementLaw t

/-- R65, R122: over every step the firing schedule stays ordered by due time and the gate calendar by key time, equal times
in the order of entry. -/
def Obligations.OrderLawIsKept : Prop :=
  ∀ s t : State, OrderLaw s → step s = .next t → OrderLaw t

/-! ## Dispatch and firing (chapter 4) -/

/-- R69, R43: staging binds the head of the firing schedule to the lowest IDLE engine; a head that is no longer ARMED
is dropped; and nothing is staged from an empty schedule, without an IDLE engine, under hold, in FATAL, in teardown,
or before the due time less the lead. A command whose condition does not hold does nothing (log entry 8). The engine's
mark `fresh` is the model's (R72). `stageHead` is what STAGE does: the same takes place at the end of an instance (R78). -/
def Obligations.StageBindsTheHead : Prop :=
  (∀ (s : State) (h : TimedEntry) (rest : List TimedEntry) (x : Slot) (e : Fin 4), s.dsp.schedule = h :: rest →
    s.slot? h.slot = some x → x.state = .armed → h.time ≤ s.tb.value + 1000 * s.dsp.lead → s.dsp.hold = false → Lives s →
    (s.engine e).state = .idle → (∀ f : Fin 4, f < e → (s.engine f).state ≠ .idle) →
    ∃ t, exec .stage s = .next t ∧ t.slot? h.slot = some { x with state := .staged }
      ∧ (∀ k ≠ h.slot, t.slot? k = s.slot? k)
      ∧ (t.engine e).state = .bound ∧ (t.engine e).slot = h.slot ∧ (t.engine e).due = h.time
      ∧ (t.engine e).fresh = true ∧ (∀ f ≠ e, t.engine f = s.engine f) ∧ t.dsp.schedule = rest
      ∧ t.ast.quotas = s.ast.quotas ∧ t.ast.seq = s.ast.seq ∧ t.hp = s.hp ∧ t.rqe = s.rqe ∧ t.lnu = s.lnu ∧ t.cu = s.cu
      ∧ t.tb = s.tb ∧ t.wtb = s.wtb ∧ t.dsp.lead = s.dsp.lead ∧ t.dsp.budget = s.dsp.budget ∧ t.dsp.hold = s.dsp.hold)
  ∧ (∀ (s : State) (h : TimedEntry) (rest : List TimedEntry) (e : Fin 4), s.dsp.schedule = h :: rest →
    (∀ x, s.slot? h.slot = some x → x.state ≠ .armed) → h.time ≤ s.tb.value + 1000 * s.dsp.lead → s.dsp.hold = false →
    Lives s → (s.engine e).state = .idle → exec .stage s = .next { s with dsp := { s.dsp with schedule := rest } })
  ∧ (∀ s : State, (s.dsp.schedule = [] ∨ (∀ e, (s.engine e).state ≠ .idle) ∨ s.dsp.hold = true ∨ ¬ Lives s
      ∨ ∃ h rest, s.dsp.schedule = h :: rest ∧ s.tb.value + 1000 * s.dsp.lead < h.time) → exec .stage s = .next s)
  ∧ ∀ s : State, exec .stage s = .next s.stageHead

/-- R72 to R76: a BOUND engine starts its instance once its due time has been reached, in a period after that of its
staging and outside FATAL and teardown. It is late if the start lies after the due time plus the tolerance; SKIP and
ABORT then end it without an operation. A command whose condition does not hold does nothing (log entry 8). The last value
0 of an operation path that is IDLE is log entry 5. -/
def Obligations.StartBeginsAnInstance : Prop :=
  (∀ (s u : State) (e : Fin 4) (x : Slot) (late : Bool), (s.engine e).state = .bound → (s.engine e).fresh = false →
    (s.engine e).due ≤ s.tb.value → Lives s → s.slot? (s.engine e).slot = some x →
    late = decide ((s.engine e).due + 1000 * x.tolerance < s.tb.value) →
    u = (s.setSlot (s.engine e).slot { x with state := .firing, capture := 0 }).setEngine e
      { s.engine e with
        state := .running, start := s.tb.value, budget := 1000000 * s.dsp.budget, runTime := 0, late := late
        operation := 1, fresh := false, stop := none, path := OpPath.reset } →
    ((late = false ∨ x.latePolicy = .fire) →
      exec (.instanceStart e) s = .next (State.runOps e x.tenant 1 x.ops u))
    ∧ (late = true → x.latePolicy = .skip → exec (.instanceStart e) s = .next (u.endInstance e .lateSkipped 0))
    ∧ (late = true → x.latePolicy = .abort → exec (.instanceStart e) s = .next (u.endInstance e .lateAborted 0)))
  ∧ ∀ (s : State) (e : Fin 4), ((s.engine e).state ≠ .bound ∨ (s.engine e).fresh = true ∨ s.tb.value < (s.engine e).due
      ∨ ¬ Lives s) → exec (.instanceStart e) s = .next s

/-- R76, R112: when the run time reaches the budget, a read or LINE request in flight is waited for; anything else
ends at once with OVERRUN and the index of the operation in progress, and a write that waits for the link is not
issued. A command whose condition does not hold does nothing (log entry 8). -/
def Obligations.BudgetStopsAnInstance : Prop :=
  ∀ (s : State) (e : Fin 4), (s.engine e).state = .running → (s.engine e).stop = none → Lives s →
    ((s.engine e).runTime < (s.engine e).budget → exec (.budgetExpired e) s = .next s)
    ∧ ((s.engine e).budget ≤ (s.engine e).runTime →
      (((s.engine e).path.phase = .readWait ∨ (s.engine e).path.phase = .lineWait) →
        exec (.budgetExpired e) s = .next (s.setEngine e { s.engine e with stop := some .budget }))
      ∧ (((s.engine e).path.phase = .waiting ∨ (s.engine e).path.phase = .pollGap) →
        exec (.budgetExpired e) s = .next (s.endInstance e .overrun (s.engine e).operation))
      ∧ ((s.engine e).path.phase = .writeWait →
        exec (.budgetExpired e) s = .next
          ({ s with hp := { s.hp with posted := s.hp.posted.filter (fun p => p != Posted.op e) } }.endInstance e .overrun
            (s.engine e).operation)))

/-- R91, R92: the step event makes DSP unbind every BOUND action whose due less the lead lies ahead, whichever way the
clock was stepped (log entry 36): it returns to the firing schedule as ARMED with its due and its old number. A BOUND engine
whose due less the lead has been reached stays BOUND, engines that run are not touched, and no BOUND engine is left too
early. Heads are then staged in schedule order, until the engines or the eligible actions run out (R69). In FATAL and
teardown the event is dropped. A command whose condition does not hold does nothing (log entry 8). -/
def Obligations.StepEventUnbinds : Prop :=
  (∀ (s : State) (x : StepEvent) (rest : List StepEvent) (ahead : Fin 4 → Prop), s.dsp.steps = x :: rest → Lives s →
    (∀ e, ahead e ↔ (s.engine e).state = .bound ∧ s.tb.value + 1000 * s.dsp.lead < (s.engine e).due) →
    ∃ u t taken, exec .dspStepEvent s = .next t ∧ StagedFrom u t taken ∧ t.dsp.steps = rest
      ∧ (∀ e, ahead e → u.engine e = Engine.released) ∧ (∀ e, ¬ ahead e → u.engine e = s.engine e)
      ∧ (∀ id, (∀ e, ahead e → (s.engine e).slot ≠ id) → u.slot? id = s.slot? id)
      ∧ s.dsp.schedule.Sublist u.dsp.schedule
      ∧ (∀ h, h ∈ u.dsp.schedule ↔ h ∈ s.dsp.schedule ∨ ∃ e y, ahead e ∧ s.slot? (s.engine e).slot = some y
          ∧ h = { slot := (s.engine e).slot, time := (s.engine e).due, seq := y.seq })
      ∧ (s.dsp.schedule.Pairwise (fun a b => b.before a = false) →
          u.dsp.schedule.Pairwise (fun a b => b.before a = false))
      ∧ (∀ e, (t.engine e).state = .bound → (t.engine e).due ≤ s.tb.value + 1000 * s.dsp.lead)
      ∧ (∀ e, (s.engine e).state = .bound → (s.engine e).due ≤ s.tb.value + 1000 * s.dsp.lead →
          t.engine e = s.engine e)
      ∧ (∀ e, ((s.engine e).state = .running ∨ (s.engine e).state = .halted) → t.engine e = s.engine e)
      ∧ (StoreLaw s → PlacementLaw s → ∀ e y, ahead e → s.slot? (s.engine e).slot = some y →
          u.slot? (s.engine e).slot = some { y with state := .armed }
          ∧ t.slot? (s.engine e).slot = some { y with state := .armed }
          ∧ ({ slot := (s.engine e).slot, time := (s.engine e).due, seq := y.seq } : TimedEntry) ∈ t.dsp.schedule)
      ∧ t.hp = s.hp ∧ t.rqe = s.rqe ∧ t.lnu = s.lnu ∧ t.cu = s.cu ∧ t.tb = s.tb ∧ t.wtb = s.wtb
      ∧ t.ast.quotas = s.ast.quotas ∧ t.ast.seq = s.ast.seq ∧ t.dsp.lead = s.dsp.lead ∧ t.dsp.budget = s.dsp.budget
      ∧ t.dsp.hold = s.dsp.hold)
  ∧ (∀ (s : State) (x : StepEvent) (rest : List StepEvent), s.dsp.steps = x :: rest → ¬ Lives s →
    exec .dspStepEvent s = .next { s with dsp := { s.dsp with steps := rest } })
  ∧ ∀ s : State, s.dsp.steps = [] → exec .dspStepEvent s = .next s

/-- R78 to R86, R170: the end of an instance, up to the staging of the next head. A single action posts its FINAL fire
completion and its slot is freed. A recurring one ends on LATE_ABORTED, on a fault under END, with its end-requested
mark set, when the instants used reach its count, or without a next due up to 2^63 − 1: it too posts its FINAL
completion, with CANCELLED where it is marked and with the instants just missed, and its slot is freed. Otherwise it
is re-armed with the next due under a new number, and the instants it passed over are counted as missed: its
completion is posted, or withheld under FINAL_AND_FAULTS, and a withheld late one sets the late carry mark. On a
DELETING ring the ring retires after the last completion when this was its last slot. The zeros of an IDLE engine are
log entry 5. What a completion counts for at the hand-over of its write is log entry 38. -/
def Obligations.InstanceEndReportsAndReArms : Prop :=
  (∀ (s : State) (e : Fin 4) (st : Status) (i : Nat) (x : Slot) (q : Fin 16), Lives s →
    s.slot? (s.engine e).slot = some x → (s.sq x.ring).state ≠ .deleting → q = (s.sq x.ring).cq →
    (s.cq q).state = .active → (s.cq q).outbox = [] → 1 ≤ (s.cq q).room →
    ∃ u : State, s.endInstance e st i = u.stageHead ∧ u.engine e = Engine.released
      ∧ (∀ f ≠ e, u.engine f = s.engine f) ∧ (∀ k ≠ (s.engine e).slot, u.slot? k = s.slot? k)
      ∧ (∀ k ≠ q, u.cq k = s.cq k) ∧ u.rqe = s.rqe ∧ u.tb = s.tb ∧ u.wtb = s.wtb ∧ u.ast.quotas = s.ast.quotas
      ∧ u.lnu.outputs = s.lnu.outputs ∧ u.lnu.inputs = s.lnu.inputs ∧ u.dsp.hold = s.dsp.hold ∧ u.dsp.lead = s.dsp.lead
      ∧ u.dsp.budget = s.dsp.budget
      ∧ (x.period = 0 →
          u.slot? (s.engine e).slot = none
          ∧ HandsOver s u ((s.cq q).entryWrite q
              { kind := .fire, status := st, source := x.ring.val
                late := ((s.engine e).late && st != .lateSkipped && st != .lateAborted) || x.lateCarry
                final := true, cancelled := x.endRequested, opIndex := if st.isFault then i else 0
                aux16 := min x.missed 65535, tag := x.tag, aux32 := (x.ended + 1) % 2 ^ 32, time := (s.engine e).start
                value := x.capture }
              :: (s.cq q).afterWrite.notices q))
      ∧ ∀ (k n added used : Nat) (ends withheld : Prop), x.period ≠ 0 →
          k = nextStep (s.engine e).due x.period s.tb.value → n = (s.engine e).due + k * x.period →
          added = (if x.count = 0 then k - 1 else min (k - 1) (x.count - (x.used + 1))) →
          used = (if x.count = 0 then x.used else x.used + 1 + added) →
          (ends ↔ st = .lateAborted ∨ (st.isFault = true ∧ x.faultPolicy = .endAction) ∨ x.endRequested = true
            ∨ (x.count ≠ 0 ∧ x.count ≤ used) ∨ 2 ^ 63 - 1 < n) →
          (withheld ↔ x.completionMode = .finalAndFaults ∧ (st = .ok ∨ st = .lateSkipped)) →
          (ends →
            u.slot? (s.engine e).slot = none
            ∧ HandsOver s u ((s.cq q).entryWrite q
                { kind := .fire, status := st, source := x.ring.val
                  late := ((s.engine e).late && st != .lateSkipped && st != .lateAborted) || x.lateCarry
                  final := true, cancelled := x.endRequested, opIndex := if st.isFault then i else 0
                  aux16 := min (x.missed + added) 65535, tag := x.tag, aux32 := (x.ended + 1) % 2 ^ 32
                  time := (s.engine e).start, value := x.capture }
                :: (s.cq q).afterWrite.notices q))
          ∧ (¬ ends →
            ({ slot := (s.engine e).slot, time := n, seq := s.ast.seq } : TimedEntry) ∈ u.dsp.schedule
            ∧ u.ast.seq = s.ast.seq + 1)
          ∧ (¬ ends → ¬ withheld →
            u.slot? (s.engine e).slot = some
                { x with
                  state := .armed, due := n, seq := s.ast.seq, ended := (x.ended + 1) % 2 ^ 32, used := used
                  missed := min added 65535, lateCarry := false }
            ∧ HandsOver s u ((s.cq q).entryWrite q
                { kind := .fire, status := st, source := x.ring.val
                  late := ((s.engine e).late && st != .lateSkipped) || x.lateCarry
                  final := false, cancelled := false, opIndex := if st.isFault then i else 0
                  aux16 := x.missed, tag := x.tag, aux32 := (x.ended + 1) % 2 ^ 32, time := (s.engine e).start
                  value := x.capture }
                :: (s.cq q).afterWrite.notices q))
          ∧ (¬ ends → withheld →
            u.slot? (s.engine e).slot = some
                { x with
                  state := .armed, due := n, seq := s.ast.seq, ended := (x.ended + 1) % 2 ^ 32, used := used
                  missed := min (x.missed + added) 65535, lateCarry := x.lateCarry || (s.engine e).late }
            ∧ HandsOver s u [] ∧ u.cu = s.cu))
  ∧ ∀ (s : State) (e : Fin 4) (st : Status) (i : Nat) (x : Slot) (q : Fin 16) (k n added used : Nat), Lives s →
    s.slot? (s.engine e).slot = some x → (s.sq x.ring).state = .deleting → q = (s.sq x.ring).cq →
    (s.cq q).state = .active → (s.cq q).outbox = [] → 1 ≤ (s.cq q).room →
    k = nextStep (s.engine e).due x.period s.tb.value → n = (s.engine e).due + k * x.period →
    added = (if x.period = 0 then 0 else if x.count = 0 then k - 1 else min (k - 1) (x.count - (x.used + 1))) →
    used = (if x.count = 0 then x.used else x.used + 1 + added) →
    (x.period = 0 ∨ st = .lateAborted ∨ (st.isFault = true ∧ x.faultPolicy = .endAction) ∨ x.endRequested = true
      ∨ (x.count ≠ 0 ∧ x.count ≤ used) ∨ 2 ^ 63 - 1 < n) →
    ∃ u v : State, s.endInstance e st i = u.stageHead ∧ v.slot? (s.engine e).slot = none
      ∧ (∀ k ≠ (s.engine e).slot, v.slot? k = s.slot? k) ∧ v.engine e = Engine.released
      ∧ (∀ f ≠ e, v.engine f = s.engine f) ∧ v.rqe = s.rqe
      ∧ HandsOver s v ((s.cq q).entryWrite q
          { kind := .fire, status := st, source := x.ring.val
            late := ((s.engine e).late && st != .lateSkipped && st != .lateAborted) || x.lateCarry
            final := true, cancelled := x.endRequested, opIndex := if st.isFault then i else 0
            aux16 := min (x.missed + added) 65535, tag := x.tag, aux32 := (x.ended + 1) % 2 ^ 32
            time := (s.engine e).start, value := x.capture }
          :: (s.cq q).afterWrite.notices q)
      ∧ RetiresIfEmpty v u x.ring

/-- R88, R89, R90, R71: HOLD and RESUME DISPATCH report the hold state before the command and the busy engines; a
RESUME taken while dispatch is not held changes nothing; SET DISPATCH replaces lead and budget together or is refused.
RESUME and an accepted SET DISPATCH stage at once, in schedule order, until the engines or the eligible actions run
out (R69). That their completion, with the engines it counts, comes before the staging is log entry 19. What a
completion counts for at the hand-over of its write is log entry 38. -/
def Obligations.DispatchCommands : Prop :=
  (∀ (s : State) (c : Fin 8) (e : Entry), AdminWaits s c .holdDispatch e → ∃ t, exec (.holdDispatch c) s = .next t
    ∧ Answered { s with dsp := { s.dsp with hold := true } } t c 0
        { status := .ok, time := s.tb.value, aux32 := if s.dsp.hold then 1 else 0
          value := BitVec.ofNat 64
            (s.dsp.engines.toList.countP (fun x => decide (x.state = .bound ∨ x.state = .running))) })
  ∧ (∀ (s : State) (c : Fin 8) (e : Entry), AdminWaits s c .resumeDispatch e →
    (s.dsp.hold = true → ∃ u taken, exec (.resumeDispatch c) s = .next u.stageAll ∧ StagedFrom u u.stageAll taken
      ∧ Answered { s with dsp := { s.dsp with hold := false } } u c 0
          { status := .ok, time := s.tb.value, aux32 := 1
            value := BitVec.ofNat 64
              (s.dsp.engines.toList.countP (fun x => decide (x.state = .bound ∨ x.state = .running))) })
    ∧ (s.dsp.hold = false → ∃ t, exec (.resumeDispatch c) s = .next t
      ∧ Answered s t c 0
          { status := .ok, time := s.tb.value, aux32 := 0
            value := BitVec.ofNat 64
              (s.dsp.engines.toList.countP (fun x => decide (x.state = .bound ∨ x.state = .running))) }))
  ∧ ∀ (s : State) (c : Fin 8) (e : Entry) (lead budget : Nat), AdminWaits s c .setDispatch e → lead = bytesOf e 8 2 →
      budget = bytesOf e 10 2 →
      ((2 ≤ lead ∧ lead ≤ 1000 ∧ 1 ≤ budget ∧ budget ≤ 1000) →
        ∃ u taken, exec (.setDispatch c) s = .next u.stageAll ∧ StagedFrom u u.stageAll taken
          ∧ Answered { s with dsp := { s.dsp with lead := lead, budget := budget } } u c 0
              { status := .ok, time := s.tb.value, value := packValue lead 16 budget })
      ∧ (¬ (2 ≤ lead ∧ lead ≤ 1000 ∧ 1 ≤ budget ∧ budget ≤ 1000) →
        ∃ t, exec (.setDispatch c) s = .next t
          ∧ Answered s t c 0
              { status := .badField, time := s.tb.value, value := packValue s.dsp.lead 16 s.dsp.budget })

/-! ## Operation execution (chapter 5) -/

/-- R97 to R100, R103 to R105, R107 to R109: how the next operation of a list is begun. WRITE and STAMP are checked at their
issue, issued when the link takes them, and left in WRITE_WAIT when it does not; READ, POLL and MASKED_WRITE are checked, the
last for both rights, and their read is issued; a refusal ends the instance with ACCESS_DENIED and the index; WAIT starts its
timer and LINE is handed to LNU; an empty list ends the instance with OK. A write that waits stands last
among the posted writes (R177), and what is issued stands last on the link. While the bus master enable is clear HP issues
nothing (R199): a write is discarded after its check (log entry 23) and a read is not on the link. The credits of the link are
log entry 2 and the last value 0 of a path that has read nothing log entry 5. -/
def Obligations.OperationsAreBegunInOrder : Prop :=
  ∀ (s : State) (e : Fin 4) (tenant i : Nat) (rest : List Op),
    State.runOps e tenant i [] s = s.endInstance e .ok 0
    ∧ (∀ o w a d, (o = .write w a d ∨ (o = .stamp a ∧ w = .w64 ∧ d = BitVec.ofNat 64 s.tb.value)) →
        (LinkTakes s → permitted s.wtb tenant .write a w.bytes = true →
          State.runOps e tenant i (o :: rest) s
            = State.runOps e tenant (i + 1) rest
                { s with hp := { s.hp with bus := s.hp.bus ++ [BusTxn.opWrite e a w d], credits := s.hp.credits - 1 } })
        ∧ (s.hp.busMaster = false → permitted s.wtb tenant .write a w.bytes = true →
          State.runOps e tenant i (o :: rest) s = State.runOps e tenant (i + 1) rest s)
        ∧ ((LinkTakes s ∨ s.hp.busMaster = false) → permitted s.wtb tenant .write a w.bytes = false →
          State.runOps e tenant i (o :: rest) s = s.endInstance e .accessDenied i)
        ∧ (s.hp.busMaster = true → ¬ LinkTakes s →
          State.runOps e tenant i (o :: rest) s
            = (s.setEngine e { s.engine e with
                operation := i, path := { OpPath.reset with phase := .writeWait } }).queuePosted (.op e)))
    ∧ (∀ (u : State) (w : Width) (a : Addr),
        u = s.setEngine e { s.engine e with
          operation := i, path := { OpPath.reset with phase := .readWait, onLink := s.hp.busMaster } } →
        (∀ o, (o = .read w a ∨ ∃ d m limit, o = .poll w a d m limit) →
          (permitted s.wtb tenant .read a w.bytes = true →
            State.runOps e tenant i (o :: rest) s = if s.hp.busMaster then u.place (.opRead e a w) else u)
          ∧ (permitted s.wtb tenant .read a w.bytes = false →
            State.runOps e tenant i (o :: rest) s = s.endInstance e .accessDenied i))
        ∧ ∀ d m,
          (permitted s.wtb tenant .read a w.bytes = true → permitted s.wtb tenant .write a w.bytes = true →
            State.runOps e tenant i (.maskedWrite w a d m :: rest) s
              = if s.hp.busMaster then u.place (.opRead e a w) else u)
          ∧ ((permitted s.wtb tenant .read a w.bytes = false ∨ permitted s.wtb tenant .write a w.bytes = false) →
            State.runOps e tenant i (.maskedWrite w a d m :: rest) s = s.endInstance e .accessDenied i))
    ∧ (∀ n, State.runOps e tenant i (.wait n :: rest) s
        = s.setEngine e { s.engine e with operation := i, path := { OpPath.reset with phase := .waiting } })
    ∧ (∀ l v, State.runOps e tenant i (.line l v :: rest) s
        = s.setEngine e { s.engine e with operation := i, path := { OpPath.reset with phase := .lineWait } })
    ∧ (∀ p, s.queuePosted p = { s with hp := { s.hp with posted := s.hp.posted ++ [p] } })
    ∧ ∀ b, s.place b = { s with hp := { s.hp with bus := s.hp.bus ++ [b] } }

/-- R103, R104, R113: the value of a read becomes the capture value. A READ then completes. A MASKED_WRITE forms (old AND NOT
mask) OR (data AND mask), is checked again, and is issued, refused or left waiting; while the bus master enable is clear the
write is discarded after its check (R199, log entry 23). In an instance that has been stopped neither goes on: it ends as its
stop says, and no write follows. The credits of the link are log entry 2; the zeros of an IDLE engine and path are log entry
5. -/
def Obligations.ReadsReturn : Prop :=
  (∀ (s u : State) (e : Fin 4) (x : Slot) (w : Width) (a : Addr) (o : Op) (i : Instr) (v : Word64),
    ((o = .read w a ∧ i = .readDataReturned e v) ∨ ∃ d m, o = .maskedWrite w a d m ∧ i = .maskedWriteReadReturned e v) →
    InProgress s e x o .readWait → (s.engine e).path.onLink = true →
    u = s.setSlot (s.engine e).slot { x with capture := w.fit v } →
    ((s.engine e).stop = none → o = .read w a →
      exec i s = .next
        (State.runOps e x.tenant ((s.engine e).operation + 1) (x.ops.drop (s.engine e).operation) u))
    ∧ ((s.engine e).stop = some .budget → exec i s = .next (u.endInstance e .overrun (s.engine e).operation))
    ∧ ((s.engine e).stop = some .teardown →
      exec i s = .next ((s.setEngine e Engine.released).freeSlot (s.engine e).slot))
    ∧ ((s.engine e).stop = some .fatal →
      exec i s = .next (u.setEngine e
        { s.engine e with state := .halted, fresh := false, stop := none, path := OpPath.reset })))
  ∧ ∀ (s u : State) (e : Fin 4) (x : Slot) (w : Width) (a : Addr) (d m v : Word64),
    InProgress s e x (.maskedWrite w a d m) .readWait → (s.engine e).path.onLink = true → (s.engine e).stop = none →
    u = s.setSlot (s.engine e).slot { x with capture := w.fit v } →
    (LinkTakes s → permitted s.wtb x.tenant .write a w.bytes = true →
      exec (.maskedWriteReadReturned e v) s = .next
        (State.runOps e x.tenant ((s.engine e).operation + 1) (x.ops.drop (s.engine e).operation)
          { u with hp := { u.hp with
              bus := u.hp.bus ++ [BusTxn.opWrite e a w (w.fit ((w.fit v &&& ~~~m) ||| (d &&& m)))]
              credits := u.hp.credits - 1 } }))
    ∧ (s.hp.busMaster = false → permitted s.wtb x.tenant .write a w.bytes = true →
      exec (.maskedWriteReadReturned e v) s = .next
        (State.runOps e x.tenant ((s.engine e).operation + 1) (x.ops.drop (s.engine e).operation) u))
    ∧ ((LinkTakes s ∨ s.hp.busMaster = false) → permitted s.wtb x.tenant .write a w.bytes = false →
      exec (.maskedWriteReadReturned e v) s = .next (u.endInstance e .accessDenied (s.engine e).operation))
    ∧ (s.hp.busMaster = true → ¬ LinkTakes s →
      exec (.maskedWriteReadReturned e v) s = .next
        ((u.setEngine e { s.engine e with
            path := { OpPath.reset with phase := .writeWait, lastValue := w.fit v } }).queuePosted (.op e)))

/-- R105, R106: a POLL completes on a matching value, expires when its limit has passed and no read is in flight, and
otherwise reads again once 1 µs has passed since its last read, checked anew. R77, R113: in an instance that has been
stopped, matching or not, the value becomes the capture value and the instance ends with OVERRUN for the budget, is
HALTED for FATAL, and is released with its slot for teardown, where the value is discarded. A command whose condition
does not hold does nothing (log entry 8); the zeros of an IDLE engine and path are log entry 5. While the bus master
enable is clear a further read is not on the link (R199), so that the failure row alone answers it. -/
def Obligations.PollReadsUntilItMatches : Prop :=
  (∀ (s u : State) (e : Fin 4) (x : Slot) (w : Width) (a : Addr) (d m v : Word64) (limit : Nat),
    InProgress s e x (.poll w a d m limit) .readWait → (s.engine e).path.onLink = true →
    u = s.setSlot (s.engine e).slot { x with capture := w.fit v } →
    ((s.engine e).stop = none → w.fit v &&& m = d &&& m → exec (.pollReadReturned e v) s = .next
      (State.runOps e x.tenant ((s.engine e).operation + 1) (x.ops.drop (s.engine e).operation) u))
    ∧ ((s.engine e).stop = none → w.fit v &&& m ≠ d &&& m → limit ≤ (s.engine e).path.pollLimitTimer →
      exec (.pollReadReturned e v) s = .next (u.endInstance e .pollExpired (s.engine e).operation))
    ∧ ((s.engine e).stop = none → w.fit v &&& m ≠ d &&& m → (s.engine e).path.pollLimitTimer < limit →
      exec (.pollReadReturned e v) s = .next
        (u.setEngine e { s.engine e with
          path := { (s.engine e).path with phase := .pollGap, lastValue := w.fit v, readTimer := 0 } }))
    ∧ ((s.engine e).stop = some .budget →
      exec (.pollReadReturned e v) s = .next (u.endInstance e .overrun (s.engine e).operation))
    ∧ ((s.engine e).stop = some .teardown →
      exec (.pollReadReturned e v) s = .next ((s.setEngine e Engine.released).freeSlot (s.engine e).slot))
    ∧ ((s.engine e).stop = some .fatal →
      exec (.pollReadReturned e v) s = .next (u.setEngine e
        { s.engine e with state := .halted, fresh := false, stop := none, path := OpPath.reset })))
  ∧ ∀ (s : State) (e : Fin 4) (x : Slot) (w : Width) (a : Addr) (d m : Word64) (limit : Nat),
    InProgress s e x (.poll w a d m limit) .pollGap →
    (1000 ≤ (s.engine e).path.pollSpacingTimer → (s.engine e).path.pollLimitTimer < limit → s.hp.busMaster = true →
      permitted s.wtb x.tenant .read a w.bytes = true →
      exec (.pollSpacingElapsed e) s = .next
        ((s.setEngine e { s.engine e with
          path := { (s.engine e).path with
            phase := .readWait, readTimer := 0, pollSpacingTimer := 0, onLink := true } }).place (.opRead e a w)))
    ∧ (1000 ≤ (s.engine e).path.pollSpacingTimer → (s.engine e).path.pollLimitTimer < limit → s.hp.busMaster = false →
      permitted s.wtb x.tenant .read a w.bytes = true →
      exec (.pollSpacingElapsed e) s = .next
        (s.setEngine e { s.engine e with
          path := { (s.engine e).path with
            phase := .readWait, readTimer := 0, pollSpacingTimer := 0, onLink := false } }))
    ∧ (1000 ≤ (s.engine e).path.pollSpacingTimer → (s.engine e).path.pollLimitTimer < limit →
      permitted s.wtb x.tenant .read a w.bytes = false →
      exec (.pollSpacingElapsed e) s = .next (s.endInstance e .accessDenied (s.engine e).operation))
    ∧ (((s.engine e).path.pollSpacingTimer < 1000 ∨ limit ≤ (s.engine e).path.pollLimitTimer) →
      exec (.pollSpacingElapsed e) s = .next s)
    ∧ (limit ≤ (s.engine e).path.pollLimitTimer →
      exec (.pollLimitExpired e) s = .next (s.endInstance e .pollExpired (s.engine e).operation))
    ∧ ((s.engine e).path.pollLimitTimer < limit → exec (.pollLimitExpired e) s = .next s)

/-- R101, R113: a failed read, or one that has not returned within 100 µs, ends the operation with BUS_ERROR and its
index and leaves the capture value; in an instance that has been stopped, the instance ends with OVERRUN for the budget, is
HALTED for FATAL, and is released with its slot for teardown (R76, R93, R94). A timed-out read noted as stale is log entry 4.
A command whose condition does not hold does nothing (log entry 8); the zeros of an IDLE engine and path are log entry 5. -/
def Obligations.ReadsFail : Prop :=
  ∀ (s : State) (e : Fin 4) (x : Slot) (o : Op), InProgress s e x o .readWait →
    (∀ (u : State) (i : Instr),
      ((u = s ∧ i = .readFailed e)
        ∨ (u = s.noteStale (.operation e) ∧ i = .readTimeout e ∧ (s.engine e).path.onLink = true
          ∧ 100000 ≤ (s.engine e).path.readTimer)) →
      ((s.engine e).stop = none → exec i s = .next (u.endInstance e .busError (s.engine e).operation))
      ∧ ((s.engine e).stop = some .budget → exec i s = .next (u.endInstance e .overrun (s.engine e).operation))
      ∧ ((s.engine e).stop = some .teardown →
        exec i s = .next ((u.setEngine e Engine.released).freeSlot (s.engine e).slot))
      ∧ ((s.engine e).stop = some .fatal →
        exec i s = .next (u.setEngine e
          { s.engine e with state := .halted, fresh := false, stop := none, path := OpPath.reset })))
    ∧ (((s.engine e).path.readTimer < 100000 ∨ (s.engine e).path.onLink = false) → exec (.readTimeout e) s = .next s)
    ∧ s.noteStale (.operation e) = { s with hp := { s.hp with stale := s.hp.stale ++ [.operation e] } }

/-- R96, R98, R100, R107, R109: a write that waits is checked when the link accepts it, a STAMP takes its sample then,
and it is issued or refused with ACCESS_DENIED; a WAIT completes once its length has elapsed. That the check comes
first also while the bus master enable is clear, and the write is discarded only after it, is log entry 23. A command
whose condition does not hold does nothing (log entry 8). R72: a WRITE or STAMP that is the first operation of its
instance is not issued before the due time; that it goes on waiting, where a backward step has brought the timebase
below the due time since the start, is log entry 35. A write that already waits when the bus master enable is cleared
stays until it stands at the front, and is issued after all if the enable is set again first: log entry 41. -/
def Obligations.WaitsEnd : Prop :=
  (∀ (s u : State) (e : Fin 4) (x : Slot) (o : Op) (rest : List Posted) (a : Addr) (w : Width) (d : Word64),
    InProgress s e x o .writeWait → s.hp.posted = .op e :: rest → u = { s with hp := { s.hp with posted := rest } } →
    (o = .write w a d ∨ (o = .stamp a ∧ w = .w64 ∧ d = BitVec.ofNat 64 s.tb.value)
      ∨ ∃ dat m, o = .maskedWrite w a dat m
          ∧ d = w.fit (((s.engine e).path.lastValue &&& ~~~m) ||| (dat &&& m))) →
    ((s.engine e).operation ≠ 1 ∨ (s.engine e).due ≤ s.tb.value ∨ s.hp.busMaster = false
      ∨ ∃ dat m, o = .maskedWrite w a dat m) →
    (permitted s.wtb x.tenant .write a w.bytes = true → s.hp.busMaster = true →
      exec (.writeAcceptedByLink e) s = .next
        (State.runOps e x.tenant ((s.engine e).operation + 1) (x.ops.drop (s.engine e).operation)
          (u.place (.opWrite e a w d))))
    ∧ (permitted s.wtb x.tenant .write a w.bytes = true → s.hp.busMaster = false →
      exec (.writeAcceptedByLink e) s = .next
        (State.runOps e x.tenant ((s.engine e).operation + 1) (x.ops.drop (s.engine e).operation) u))
    ∧ (permitted s.wtb x.tenant .write a w.bytes = false →
      exec (.writeAcceptedByLink e) s = .next (u.endInstance e .accessDenied (s.engine e).operation)))
  ∧ (∀ (s : State) (e : Fin 4) (x : Slot) (o : Op), InProgress s e x o .writeWait → s.hp.busMaster = true →
    (s.engine e).operation = 1 → ((∃ w a d, o = .write w a d) ∨ ∃ a, o = .stamp a) → s.tb.value < (s.engine e).due →
    exec (.writeAcceptedByLink e) s = .next s)
  ∧ ∀ (s : State) (e : Fin 4) (x : Slot) (length : Nat), InProgress s e x (.wait length) .waiting →
    (length ≤ (s.engine e).path.waitTimer →
      exec (.waitElapsed e) s = .next
        (State.runOps e x.tenant ((s.engine e).operation + 1) (x.ops.drop (s.engine e).operation) s))
    ∧ ((s.engine e).path.waitTimer < length → exec (.waitElapsed e) s = .next s)

/-- R134, R99: LNU sets the level for the owner of the line outside FATAL and teardown, and answers LINE_DENIED otherwise; an
instance that the budget has stopped then ends with OVERRUN, one that teardown or FATAL has stopped is released or
HALTED. The zeros of an IDLE engine and of an IDLE path's last value are log entry 5. -/
def Obligations.LineRequestNeedsTheOwner : Prop :=
  ∀ (s : State) (e : Fin 4) (x : Slot) (l : Fin 4) (v : Level), InProgress s e x (.line l v) .lineWait →
    (Lives s → (s.output l).owner = some x.tenant → (s.engine e).stop = none →
      exec (.lineRequest e) s = .next
        (State.runOps e x.tenant ((s.engine e).operation + 1) (x.ops.drop (s.engine e).operation)
          (s.setOutput l { s.output l with level := v })))
    ∧ ((s.output l).owner ≠ some x.tenant → (s.engine e).stop = none →
      exec (.lineRequest e) s = .next (s.endInstance e .lineDenied (s.engine e).operation))
    ∧ (Lives s → (s.output l).owner = some x.tenant → (s.engine e).stop = some .budget →
      exec (.lineRequest e) s = .next
        ((s.setOutput l { s.output l with level := v }).endInstance e .overrun (s.engine e).operation))
    ∧ ((s.output l).owner ≠ some x.tenant → (s.engine e).stop = some .budget →
      exec (.lineRequest e) s = .next (s.endInstance e .overrun (s.engine e).operation))
    ∧ (¬ Lives s → (s.engine e).stop = some .teardown →
      exec (.lineRequest e) s = .next ((s.setEngine e Engine.released).freeSlot (s.engine e).slot))
    ∧ (¬ Lives s → (s.engine e).stop = some .fatal →
      exec (.lineRequest e) s = .next (s.setEngine e
        { s.engine e with state := .halted, fresh := false, stop := none, path := OpPath.reset }))

/-! ## Lines and gates (chapter 6) -/

/-- R118 to R121, R128: an edge on an enabled line is suppressed within the spacing, adding 1 to the suppressed count
and doing nothing else; otherwise it becomes the last accepted edge, every qualifying listener is released as ARMED,
due at the stamp plus its delay, and no other slot is touched; where the report select covers it, an EDGE completion
with the line, the suppressed count before, the kind, the stamp and the number of listeners released goes to the
report ring. A select covers the edges it names (R117), a rise leads to HIGH and a fall to LOW. An edge that the line
cannot see does nothing. A command whose condition does not hold does nothing (log entry 8); when a line can see an
edge is log entry 6. The listeners of one edge are released in the order of the listen list, each with the next
number. What a completion counts for at the hand-over of its write is log entry 38. -/
def Obligations.InputEdges : Prop :=
  (∀ (s : State) (l : Fin 4) (k : EdgeKind), Lives s → (s.input l).enabled = true → (s.input l).sampled = false →
    (s.input l).level ≠ some (edgeLevel k) →
    (∀ n, (s.input l).lastEdge = some n → n ≤ s.tb.value → s.tb.value - n < (s.input l).spacing →
      exec (.inputEdge l k) s = .next (s.setInput l
        { s.input l with
          suppressed := min ((s.input l).suppressed + 1) 65535, level := some (edgeLevel k), sampled := true }))
    ∧ ((∀ n, (s.input l).lastEdge = some n → s.tb.value < n ∨ (s.input l).spacing ≤ s.tb.value - n) →
      ∃ t, exec (.inputEdge l k) s = .next t
        ∧ (t.input l).lastEdge = some s.tb.value ∧ (t.input l).level = some (edgeLevel k) ∧ (t.input l).sampled = true
        ∧ (t.input l).suppressed = (if (s.input l).reportRing.isSome && (s.input l).report.any (fun sel => sel.covers k)
            then 0 else (s.input l).suppressed)
        ∧ (∀ m ≠ l, t.input m = s.input m)
        ∧ (∀ id x g, id ∈ s.lnu.listen[l] → s.slot? id = some x → x.state = .listening → x.gate = some g →
            (g.edge = .either ∨ (g.edge = .rise ∧ k = .rise) ∨ (g.edge = .fall ∧ k = .fall)) →
            g.openTime ≤ s.tb.value → s.tb.value ≤ g.closeTime →
            ∃ y, t.slot? id = some y ∧ y.state = .armed ∧ y.due = s.tb.value + g.delay ∧ y.tag = x.tag
              ∧ y.ring = x.ring ∧ y.ops = x.ops)
        ∧ (∀ p : Nat → Bool,
            (∀ id, p id = true ↔ ∃ x g, s.slot? id = some x ∧ x.state = .listening ∧ x.gate = some g
              ∧ (g.edge = .either ∨ (g.edge = .rise ∧ k = .rise) ∨ (g.edge = .fall ∧ k = .fall))
              ∧ g.openTime ≤ s.tb.value ∧ s.tb.value ≤ g.closeTime) →
            (∀ id, (id ∉ s.lnu.listen[l] ∨ p id = false) → t.slot? id = s.slot? id)
            ∧ (s.lnu.listen[l].Nodup →
              (∀ (i id : Nat) (x : Slot) (g : Gate), (s.lnu.listen[l].filter p)[i]? = some id → s.slot? id = some x →
                x.gate = some g →
                t.slot? id = some
                    { x with state := .armed, due := s.tb.value + g.delay, seq := s.ast.seq + BitVec.ofNat 64 i }
                ∧ ({ slot := id, time := s.tb.value + g.delay, seq := s.ast.seq + BitVec.ofNat 64 i } : TimedEntry)
                    ∈ t.dsp.schedule)
              ∧ t.ast.seq = s.ast.seq + BitVec.ofNat 64 (s.lnu.listen[l].filter p).length)
            ∧ t.lnu.listen[l] = s.lnu.listen[l].filter (fun id => !p id)
            ∧ (∀ m : Fin 4, m ≠ l → (∀ id ∈ s.lnu.listen[l], id ∉ s.lnu.listen[m]) → t.lnu.listen[m] = s.lnu.listen[m])
            ∧ (∀ y, y ∈ t.lnu.calendar ↔ y ∈ s.lnu.calendar ∧ (y.slot ∉ s.lnu.listen[l] ∨ p y.slot = false))
            ∧ (∀ y, (y.slot ∉ s.lnu.listen[l] ∨ p y.slot = false) → (y ∈ t.dsp.schedule ↔ y ∈ s.dsp.schedule))
            ∧ ∀ sel q, (s.input l).report = some sel → (s.input l).reportRing = some q → sel.covers k = true →
              (s.cq q).state = .active → (s.cq q).outbox = [] → 1 ≤ (s.cq q).room →
              HandsOver s t ((s.cq q).entryWrite q
                { kind := .edge, status := .ok, source := l.val, aux16 := (s.input l).suppressed
                  aux32 := (match k with
                    | .rise => 1
                    | .fall => 2)
                  time := s.tb.value, value := BitVec.ofNat 64 (s.lnu.listen[l].countP p) }
                :: (s.cq q).afterWrite.notices q))
        ∧ (((s.input l).report = none ∨ (s.input l).reportRing = none
            ∨ ∃ sel, (s.input l).report = some sel ∧ sel.covers k = false) → HandsOver s t [] ∧ t.cu = s.cu)
        ∧ t.lnu.outputs = s.lnu.outputs ∧ t.tb = s.tb ∧ t.wtb = s.wtb ∧ t.dsp.engines = s.dsp.engines))
  ∧ (∀ (s : State) (l : Fin 4) (k : EdgeKind), (¬ Lives s ∨ (s.input l).enabled = false ∨ (s.input l).sampled = true
      ∨ (s.input l).level = some (edgeLevel k)) → exec (.inputEdge l k) s = .next s)
  ∧ (∀ (sel : EdgeSelect) (k : EdgeKind), sel.covers k = true ↔
      sel = .either ∨ (sel = .rise ∧ k = .rise) ∨ (sel = .fall ∧ k = .fall))
  ∧ edgeLevel .rise = .high ∧ edgeLevel .fall = .low

/-- R125, R126, R127: the head of the calendar, its key reached. An AWAITING action becomes LISTENING under a new
number, at the tail of its line's listen list; a LISTENING one ends with GATE_CLOSED, or enters the firing schedule
due at its close time. A command whose condition does not hold does nothing (log entry 8). What a completion counts
for at the hand-over of its write is log entry 38. -/
def Obligations.GatesOpenAndClose : Prop :=
  ∀ (s : State) (h : TimedEntry) (rest : List TimedEntry) (x : Slot) (g : Gate), Lives s → s.lnu.calendar = h :: rest →
    h.time ≤ s.tb.value → s.slot? h.slot = some x → x.gate = some g →
    (x.state = .awaiting → ∃ t, exec .gateOpen s = .next t ∧ exec .gateClose s = .next s
      ∧ t.slot? h.slot = some { x with state := .listening, seq := s.ast.seq }
      ∧ (∀ k ≠ h.slot, t.slot? k = s.slot? k) ∧ t.ast.seq = s.ast.seq + 1
      ∧ t.lnu.listen[g.line] = s.lnu.listen[g.line].filter (fun k => k != h.slot) ++ [h.slot]
      ∧ (∀ y, y ∈ t.lnu.calendar ↔ (y ∈ s.lnu.calendar ∧ y.slot ≠ h.slot)
          ∨ y = { slot := h.slot, time := g.closeTime, seq := s.ast.seq })
      ∧ t.cu = s.cu ∧ t.hp = s.hp ∧ t.tb = s.tb ∧ t.rqe = s.rqe ∧ t.lnu.outputs = s.lnu.outputs
      ∧ t.lnu.inputs = s.lnu.inputs ∧ t.dsp.engines = s.dsp.engines ∧ t.wtb = s.wtb)
    ∧ (x.state = .listening → g.closePolicy = .fireAtClose → ∃ t, exec .gateClose s = .next t
      ∧ exec .gateOpen s = .next s
      ∧ t.slot? h.slot = some { x with state := .armed, due := g.closeTime, seq := s.ast.seq }
      ∧ (∀ k ≠ h.slot, t.slot? k = s.slot? k) ∧ t.ast.seq = s.ast.seq + 1
      ∧ (∀ y ∈ t.lnu.calendar, y.slot ≠ h.slot) ∧ (∀ l : Fin 4, h.slot ∉ t.lnu.listen[l])
      ∧ ({ slot := h.slot, time := g.closeTime, seq := s.ast.seq } : TimedEntry) ∈ t.dsp.schedule
      ∧ t.cu = s.cu ∧ t.hp = s.hp ∧ t.tb = s.tb ∧ t.rqe = s.rqe ∧ t.lnu.outputs = s.lnu.outputs ∧ t.wtb = s.wtb)
    ∧ ∀ q, x.state = .listening → g.closePolicy = .fail → (s.sq x.ring).state ≠ .deleting → q = (s.sq x.ring).cq →
      (s.cq q).state = .active → (s.cq q).outbox = [] → 1 ≤ (s.cq q).room → ∃ t, exec .gateClose s = .next t
      ∧ t.slot? h.slot = none ∧ (∀ k ≠ h.slot, t.slot? k = s.slot? k)
      ∧ (∀ y ∈ t.lnu.calendar, y.slot ≠ h.slot) ∧ (∀ l : Fin 4, h.slot ∉ t.lnu.listen[l])
      ∧ HandsOver s t ((s.cq q).entryWrite q
          { kind := .fire, status := .gateClosed, source := x.ring.val, final := true, cancelled := x.endRequested
            tag := x.tag, time := s.tb.value, value := BitVec.ofNat 64 g.closeTime }
          :: (s.cq q).afterWrite.notices q)
      ∧ t.tb = s.tb ∧ t.rqe = s.rqe ∧ t.lnu.outputs = s.lnu.outputs ∧ t.wtb = s.wtb

/-- R124, R129, R130: on a step event LNU sweeps the gate calendar: while its head has been reached, an AWAITING head opens as
GATE_OPEN opens it and a LISTENING one closes as GATE_CLOSE closes it, an entry whose slot is neither is dropped (R43), and
the sweep goes on with the calendar as it is then; so the head that is left lies ahead. With the head ahead, or no entry,
nothing is undone and nothing else happens: every entry whose key lies ahead stays with its slot. In FATAL and teardown the
event is dropped. A command whose condition does not hold does nothing (log entry 8). -/
def Obligations.StepEventSweepsTheCalendar : Prop :=
  (∀ (s : State) (x : StepEvent) (rest : List StepEvent), s.lnu.steps = x :: rest → Lives s →
    ∃ t, exec .lnuStepEvent s = .next t ∧ t.lnu.steps = rest
      ∧ (∀ h tail, t.lnu.calendar = h :: tail → s.tb.value < h.time)
      ∧ (StoreLaw s → PlacementLaw s → ∀ y ∈ s.lnu.calendar, s.tb.value < y.time →
          y ∈ t.lnu.calendar ∧ t.slot? y.slot = s.slot? y.slot)
      ∧ t.tb = s.tb ∧ t.wtb = s.wtb ∧ t.lnu.outputs = s.lnu.outputs ∧ t.lnu.inputs = s.lnu.inputs
      ∧ t.dsp.engines = s.dsp.engines ∧ t.hp.condition = s.hp.condition)
  ∧ (∀ (s : State) (x : StepEvent) (rest : List StepEvent), s.lnu.steps = x :: rest →
      (∀ h tail, s.lnu.calendar = h :: tail → s.tb.value < h.time) →
      exec .lnuStepEvent s = .next { s with lnu := { s.lnu with steps := rest } })
  ∧ (∀ (s : State) (h : TimedEntry) (tail : List TimedEntry), s.lnu.steps ≠ [] → Lives s → s.lnu.calendar = h :: tail →
      h.time ≤ s.tb.value →
      (∀ y g, s.slot? h.slot = some y → y.gate = some g → y.state = .awaiting →
        ∃ v, exec .gateOpen s = .next v ∧ exec .lnuStepEvent s = exec .lnuStepEvent v)
      ∧ (∀ y g, s.slot? h.slot = some y → y.gate = some g → y.state = .listening →
        ∃ v, exec .gateClose s = .next v ∧ exec .lnuStepEvent s = exec .lnuStepEvent v)
      ∧ ((∀ y, s.slot? h.slot = some y → y.state ≠ .awaiting ∧ y.state ≠ .listening) →
        exec .lnuStepEvent s = exec .lnuStepEvent { s with lnu := { s.lnu with calendar := tail } }))
  ∧ (∀ (s : State) (x : StepEvent) (rest : List StepEvent), s.lnu.steps = x :: rest → ¬ Lives s →
    exec .lnuStepEvent s = .next { s with lnu := { s.lnu with steps := rest } })
  ∧ ∀ s : State, s.lnu.steps = [] → exec .lnuStepEvent s = .next s

/-- R132, R133: GRANT LINE and REVOKE LINE. The zeros reported for an object that does not exist are log entry 9. What
a completion counts for at the hand-over of its write is log entry 38. -/
def Obligations.OutputLineCommands : Prop :=
  (∀ (s : State) (c : Fin 8) (e : Entry), AdminWaits s c .grantLine e → ∃ t, exec (.grantLine c) s = .next t
    ∧ ((bytesOf e 1 1 = 0 ∨ 4 < bytesOf e 1 1) → Answered s t c 0 { status := .badField, time := s.tb.value })
    ∧ ∀ l : Fin 4, bytesOf e 1 1 = l.val + 1 →
      ((bytesOf e 2 1 = 0 ∨ 15 < bytesOf e 2 1 ∨ bytesOf e 3 1 = 0 ∨ 2 < bytesOf e 3 1) →
        Answered s t c 0
          { status := .badField, time := s.tb.value, aux32 := (s.output l).owner.getD 0
            value := BitVec.ofNat 64 (s.output l).level.code })
      ∧ ∀ safe : Level, 1 ≤ bytesOf e 2 1 → bytesOf e 2 1 ≤ 15 → bytesOf e 3 1 = safe.code →
        ((s.output l).owner.isSome = true →
          Answered s t c 0
            { status := .inUse, time := s.tb.value, aux32 := (s.output l).owner.getD 0
              value := BitVec.ofNat 64 (s.output l).level.code })
        ∧ ((s.output l).owner = none →
          Answered (s.setOutput l { owner := some (bytesOf e 2 1), safe := safe, level := (s.output l).level }) t c 0
            { status := .ok, time := s.tb.value, value := BitVec.ofNat 64 (s.output l).level.code }))
  ∧ ∀ (s : State) (c : Fin 8) (e : Entry), AdminWaits s c .revokeLine e → ∃ t, exec (.revokeLine c) s = .next t
    ∧ ((bytesOf e 1 1 = 0 ∨ 4 < bytesOf e 1 1) → Answered s t c 0 { status := .badField, time := s.tb.value })
    ∧ ∀ l : Fin 4, bytesOf e 1 1 = l.val + 1 →
      Answered (s.setOutput l { owner := none, safe := (s.output l).safe, level := (s.output l).safe }) t c 0
        { status := .ok, time := s.tb.value, aux32 := (s.output l).owner.getD 0
          value := BitVec.ofNat 64 (s.output l).level.code }

/-- R117: CONFIGURE INPUT LINE, its checks in their order; an accepted one sets the four fields and forgets the edge
history. The zeros reported for an object that does not exist are log entry 9. R118: the first sample after enabling
only sets the level from which edges are judged, so that the part sees no edge of the line in that period; the level
and the sampled mark of the record are log entry 6. What a completion counts for at the hand-over of its write is log
entry 38. -/
def Obligations.ConfigureInputLineChecks : Prop :=
  (∀ (s : State) (c : Fin 8) (e : Entry) (enabled select ring spacing : Nat), AdminWaits s c .configureInput e →
    enabled = bytesOf e 2 1 → select = bytesOf e 3 1 → ring = bytesOf e 4 1 → spacing = bytesOf e 8 4 →
    ∃ t, exec (.configureInputLine c) s = .next t
      ∧ (4 ≤ bytesOf e 1 1 → Answered s t c 0 { status := .badField, time := s.tb.value })
      ∧ ∀ l : Fin 4, bytesOf e 1 1 = l.val →
        ((1 < enabled ∨ 3 < select ∨ 1000000 < spacing ∨ (select = 0 ∧ ring ≠ 0) ∨ (select ≠ 0 ∧ 15 < ring)) →
          Answered s t c 0
            { status := .badField, time := s.tb.value, aux32 := (s.input l).suppressed
              value := BitVec.ofNat 64 ((s.input l).lastEdge.getD 0) })
        ∧ (∀ q : Fin 16, enabled ≤ 1 → spacing ≤ 1000000 → 1 ≤ select → select ≤ 3 → ring = q.val →
          (s.cq q).state ≠ .active →
          Answered s t c 0
            { status := .noRing, time := s.tb.value, aux32 := (s.input l).suppressed
              value := BitVec.ofNat 64 ((s.input l).lastEdge.getD 0) })
        ∧ (∀ q : Fin 16, enabled ≤ 1 → spacing ≤ 1000000 → 1 ≤ select → select ≤ 3 → ring = q.val →
          (s.cq q).state = .active →
          Answered (s.setInput l
            { enabled := enabled == 1, report := edgeSelectOf select, reportRing := some q, spacing := spacing, lastEdge := none
              suppressed := 0
              level := if enabled = 1 ∧ (s.input l).enabled = true then (s.input l).level else none
              sampled := if enabled = 1 ∧ (s.input l).enabled = true then (s.input l).sampled else true }) t c 0
            { status := .ok, time := s.tb.value, aux32 := (s.input l).suppressed
              value := BitVec.ofNat 64 ((s.input l).lastEdge.getD 0) }
            ∧ (enabled = 1 → (s.input l).enabled = false → ∀ k, exec (.inputEdge l k) t = .next t))
        ∧ (enabled ≤ 1 → spacing ≤ 1000000 → select = 0 → ring = 0 →
          Answered (s.setInput l
            { enabled := enabled == 1, report := none, reportRing := none, spacing := spacing, lastEdge := none
              suppressed := 0
              level := if enabled = 1 ∧ (s.input l).enabled = true then (s.input l).level else none
              sampled := if enabled = 1 ∧ (s.input l).enabled = true then (s.input l).sampled else true }) t c 0
            { status := .ok, time := s.tb.value, aux32 := (s.input l).suppressed
              value := BitVec.ofNat 64 ((s.input l).lastEdge.getD 0) }
            ∧ (enabled = 1 → (s.input l).enabled = false → ∀ k, exec (.inputEdge l k) t = .next t)))
  ∧ edgeSelectOf 1 = some .rise ∧ edgeSelectOf 2 = some .fall ∧ edgeSelectOf 3 = some .either

/-- R131, R133, R135, R136: over every step an output line without an owner stands at its safe level, and every line does in
FATAL and in teardown. R90, R117: the dispatch parameters and the input lines keep their ranges. -/
def Obligations.LineAndParameterLawsAreKept : Prop :=
  (∀ s t : State, OutputLaw s → step s = .next t → OutputLaw t)
  ∧ ∀ s t : State, ParameterLaw s → step s = .next t → ParameterLaw t

/-! ## Rings and requests (chapter 8) -/

/-- R155, R156: a POST sets the tail of an ACTIVE or FAULTED ring, and on ring 0 clears fetch hold; with a reserved bit, an
index at or above the size, or a ring in another state it only posts a BAD_POST notice; while the part is not READY it does
nothing. -/
def Obligations.PostSetsTheTail : Prop :=
  ∀ (s : State) (d : Word64) (r : Fin 16) (i : Nat), i = (d.extractLsb' 0 16).toNat → r.val = (d.extractLsb' 16 4).toNat →
    (s.hp.condition ≠ .ready → exec (.post d) s = .next s)
    ∧ (s.hp.condition = .ready → d.extractLsb' 20 44 = 0 → ((s.sq r).state = .active ∨ (s.sq r).state = .faulted) →
      i < (s.sq r).size →
      exec (.post d) s = .next
        (s.setSq r { s.sq r with tail := i, fetchHold := if r = 0 then false else (s.sq r).fetchHold }))
    ∧ (s.hp.condition = .ready → (d.extractLsb' 20 44 ≠ 0 ∨ (s.sq r).state = .absent ∨ (s.sq r).state = .deleting
        ∨ (s.sq r).size ≤ i) →
      exec (.post d) s = .next (s.postCompletion 0
        { kind := .notice, status := .badPost, source := r.val, aux32 := (s.sq r).state.code, time := s.tb.value
          value := BitVec.ofNat 64 i }))

/-- R159, R160, R161, R162: which rings are eligible, and the grant. Ring 0 comes first, with pointer and credits
unchanged; else the first eligible tenant ring with a credit from the pointer on, which pays one credit and moves the
pointer past it; else, after a new round, the first eligible one; else nothing. The grant reads the entry at the head
against an owed reservation. One transaction for the entry is log entry 10, and the wrap of its address past 2^64 − 1
log entry 39. A command whose condition does not hold does nothing (log entry 8). Every other ring, ABSENT ones among
them, every other context, and the rest of HP stay. -/
def Obligations.ArbiterGrants : Prop :=
  (∀ s : State, s.eligible 0 = true → ∃ t c, exec .requestGrant s = .next t ∧ s.ctx c = .free
    ∧ t.rqe = { s.rqe with
        sqs := s.rqe.sqs.set 0 { s.sq 0 with inFlight := true }
        ctxs := s.rqe.ctxs.set c (.fetch 0 (s.sq 0).head 0 s.hp.busMaster) }
    ∧ t.cu = s.cu.set (s.sq 0).cq { s.cq (s.sq 0).cq with owed := (s.cq (s.sq 0).cq).owed + 1 }
    ∧ t.hp = (if s.hp.busMaster then
        { s.hp with bus := s.hp.bus ++ [BusTxn.entryRead c ((s.sq 0).base + BitVec.ofNat 64 (128 * (s.sq 0).head))] }
        else s.hp)
    ∧ t.ast = s.ast ∧ t.dsp = s.dsp ∧ t.wtb = s.wtb ∧ t.lnu = s.lnu ∧ t.tb = s.tb)
  ∧ (∀ (s : State) (r : Fin 16), s.eligible 0 = false → r ≠ 0 → s.eligible r = true → 1 ≤ (s.sq r).credit →
    1 ≤ s.rqe.pointer → s.rqe.pointer ≤ 15 →
    (∀ k : Fin 16, k ≠ 0 → s.eligible k = true → 1 ≤ (s.sq k).credit →
      (r.val + 15 - s.rqe.pointer) % 15 ≤ (k.val + 15 - s.rqe.pointer) % 15) →
    ∃ t c, exec .requestGrant s = .next t ∧ s.ctx c = .free
      ∧ t.rqe =
          { sqs := s.rqe.sqs.set r { s.sq r with inFlight := true, credit := (s.sq r).credit - 1 }
            ctxs := s.rqe.ctxs.set c (.fetch r (s.sq r).head 0 s.hp.busMaster)
            pointer := if r = 15 then 1 else r.val + 1 }
      ∧ t.cu = s.cu.set (s.sq r).cq { s.cq (s.sq r).cq with owed := (s.cq (s.sq r).cq).owed + 1 }
      ∧ t.hp = (if s.hp.busMaster then
          { s.hp with bus := s.hp.bus ++ [BusTxn.entryRead c ((s.sq r).base + BitVec.ofNat 64 (128 * (s.sq r).head))] }
          else s.hp)
      ∧ t.ast = s.ast ∧ t.dsp = s.dsp ∧ t.wtb = s.wtb ∧ t.lnu = s.lnu ∧ t.tb = s.tb)
  ∧ (∀ (s : State) (r : Fin 16), s.eligible 0 = false → r ≠ 0 → s.eligible r = true →
    1 ≤ s.rqe.pointer → s.rqe.pointer ≤ 15 →
    (∀ k : Fin 16, k ≠ 0 → s.eligible k = true → (s.sq k).credit = 0 ∧ 1 ≤ (s.sq k).weight
      ∧ (r.val + 15 - s.rqe.pointer) % 15 ≤ (k.val + 15 - s.rqe.pointer) % 15) →
    ∃ t c, exec .requestGrant s = .next t ∧ s.ctx c = .free
      ∧ t.ctx c = .fetch r (s.sq r).head 0 s.hp.busMaster
      ∧ t.sq r = { s.sq r with inFlight := true, credit := (s.sq r).weight - 1 }
      ∧ (∀ k : Fin 16, k ≠ 0 → k ≠ r → (s.sq k).state ≠ .absent → t.sq k = { s.sq k with credit := (s.sq k).weight })
      ∧ t.sq 0 = s.sq 0 ∧ (∀ k : Fin 16, (s.sq k).state = .absent → t.sq k = s.sq k)
      ∧ (∀ d ≠ c, t.ctx d = s.ctx d) ∧ t.rqe.pointer = (if r = 15 then 1 else r.val + 1)
      ∧ t.hp = (if s.hp.busMaster then
          { s.hp with bus := s.hp.bus ++ [BusTxn.entryRead c ((s.sq r).base + BitVec.ofNat 64 (128 * (s.sq r).head))] }
          else s.hp)
      ∧ t.cu = s.cu.set (s.sq r).cq { s.cq (s.sq r).cq with owed := (s.cq (s.sq r).cq).owed + 1 }
      ∧ t.ast = s.ast ∧ t.dsp = s.dsp ∧ t.wtb = s.wtb ∧ t.lnu = s.lnu ∧ t.tb = s.tb)
  ∧ (∀ s : State, (∀ r, s.eligible r = false) → exec .requestGrant s = .next s)
  ∧ ∀ (s : State) (r : Fin 16), s.eligible r = true ↔
    s.hp.condition = .ready ∧ (s.sq r).state = .active ∧ (r = 0 → (s.sq r).fetchHold = false)
    ∧ (s.sq r).tail ≠ (s.sq r).head ∧ (s.sq r).inFlight = false ∧ (∃ c, s.ctx c = .free)
    ∧ (s.cq (s.sq r).cq).state = .active
    ∧ 1 + (s.cq (s.sq r).cq).unreleased + (s.cq (s.sq r).cq).owed ≤ (s.cq (s.sq r).cq).size

/-- R163, R165, R209: the entry that returns is taken, the head advances, and it waits in EFFECT; a kind code that
does not exist or a reserved byte that is not 0 is answered MALFORMED, a kind on the wrong side NOT_PERMITTED, with
the kind code in aux32. The kinds, their side and the bytes that they name are those of section 11.5.1 and section
11.2. On a DELETING ring a refused entry is answered in the same way, and the ring retires with it when it holds no
slot (R170). What a completion counts for at the hand-over of its write is log entry 38. -/
def Obligations.EntriesAreTaken : Prop :=
  (∀ (s u : State) (c : Fin 8) (r : Fin 16) (h timer : Nat) (e : Entry), s.hp.condition = .ready →
    s.ctx c = .fetch r h timer true →
    u = (s.setSq r { s.sq r with head := ((s.sq r).head + 1) % (s.sq r).size }).setCtx c (.effect r h e .waiting) →
    (entryRefusal r e = none → exec (.entryTaken c e) s = .next u)
    ∧ ∀ st, entryRefusal r e = some st → (s.cq (s.sq r).cq).state = .active →
      ((s.sq r).state ≠ .deleting → ∃ t, exec (.entryTaken c e) s = .next t
        ∧ Answered u t c r { status := st, time := s.tb.value, aux32 := bytesOf e 0 1 })
      ∧ ((s.sq r).state = .deleting → ∃ t v, exec (.entryTaken c e) s = .next t
        ∧ Answered u v c r { status := st, time := s.tb.value, aux32 := bytesOf e 0 1 } ∧ RetiresIfEmpty v t r))
  ∧ (∀ (r : Fin 16) (e : Entry),
    (reqKindOf (bytesOf e 0 1) = none → entryRefusal r e = some .malformed)
    ∧ ∀ k, reqKindOf (bytesOf e 0 1) = some k →
      (e &&& ~~~k.namedMask ≠ 0 → entryRefusal r e = some .malformed)
      ∧ (e &&& ~~~k.namedMask = 0 → (k.isTenant = true ↔ r = 0) → entryRefusal r e = some .notPermitted)
      ∧ (e &&& ~~~k.namedMask = 0 → (k.isTenant = true ↔ r ≠ 0) → entryRefusal r e = none))
  ∧ (∀ code k, reqKindOf code = some k ↔ ∃ t b, (code, k, t, b) ∈ requestKinds)
  ∧ ∀ p ∈ requestKinds, p.2.1.isTenant = p.2.2.1 ∧ ∀ n < 1024,
    p.2.1.namedMask.getLsbD n = p.2.2.2.any (fun b => decide (b.1 ≤ n / 8 ∧ n / 8 < b.1 + b.2))

/-- R164, R154, R162: a fetch that fails, or that has not returned within 100 µs, frees the context and the
reservation, leaves the head, makes a tenant ring FAULTED or ring 0 hold fetching, and posts SQ_FAULTED. A DELETING
ring stays so and retires when it holds no slot (R170). The order within the step is log entry 37. Data of a read that
has been given up is discarded; the list of such reads is log entry 4. A command whose condition does not hold does
nothing (log entry 8). What a completion counts for at the hand-over of its write is log entry 38. -/
def Obligations.FetchesFail : Prop :=
  (∀ (s : State) (c : Fin 8) (r q : Fin 16) (h timer : Nat) (l : Bool), s.hp.condition = .ready →
    s.ctx c = .fetch r h timer l → (s.sq r).state = .active → q = (s.sq r).cq →
    ∃ t, exec (.entryFetchFailed c) s = .next t
      ∧ t.rqe = { s.rqe with
          ctxs := s.rqe.ctxs.set c .free
          sqs := s.rqe.sqs.set r { s.sq r with
            inFlight := false, fetchHold := if r = 0 then true else (s.sq r).fetchHold
            state := if r = 0 then .active else .faulted } }
      ∧ (t.cq q).owed = (s.cq q).owed - 1
      ∧ ((s.cq q).outbox = [] → (s.cq 0).state = .active → (s.cq 0).outbox = [] → 1 ≤ (s.cq 0).room →
        HandsOver s t ((s.cq 0).entryWrite 0
          { kind := .notice, status := .sqFaulted, source := r.val, aux16 := h, aux32 := if r = 0 then 1 else 2
            time := s.tb.value }
          :: (s.cq 0).afterWrite.notices 0))
      ∧ t.ast = s.ast ∧ t.dsp = s.dsp ∧ t.wtb = s.wtb ∧ t.lnu = s.lnu ∧ t.tb = s.tb
      ∧ (l = true → 100000 ≤ timer →
          ∃ v, exec (.entryFetchTimeout c) s = .next v
            ∧ exec (.entryFetchFailed c) (s.noteStale (.entry c)) = .next v)
      ∧ (timer < 100000 → exec (.entryFetchTimeout c) s = .next s))
  ∧ (∀ (s : State) (c : Fin 8) (r q : Fin 16) (h timer : Nat) (l : Bool), s.hp.condition = .ready →
    s.ctx c = .fetch r h timer l → r ≠ 0 → (s.sq r).state = .deleting → q = (s.sq r).cq →
    ∃ t v, exec (.entryFetchFailed c) s = .next t
      ∧ v.rqe = { s.rqe with
          ctxs := s.rqe.ctxs.set c .free, sqs := s.rqe.sqs.set r { s.sq r with inFlight := false } }
      ∧ (v.cq q).owed = (s.cq q).owed - 1
      ∧ ((s.cq q).outbox = [] → (s.cq 0).state = .active → (s.cq 0).outbox = [] → 1 ≤ (s.cq 0).room →
        HandsOver s v ((s.cq 0).entryWrite 0
          { kind := .notice, status := .sqFaulted, source := r.val, aux16 := h, aux32 := 3, time := s.tb.value }
          :: (s.cq 0).afterWrite.notices 0))
      ∧ v.ast = s.ast ∧ v.dsp = s.dsp ∧ v.wtb = s.wtb ∧ v.lnu = s.lnu ∧ v.tb = s.tb ∧ RetiresIfEmpty v t r
      ∧ (l = true → 100000 ≤ timer →
          ∃ w, exec (.entryFetchTimeout c) s = .next w
            ∧ exec (.entryFetchFailed c) (s.noteStale (.entry c)) = .next w)
      ∧ (timer < 100000 → exec (.entryFetchTimeout c) s = .next s))
  ∧ ∀ (s : State) (x : ReadSource),
      exec (.staleReadData x) s = .next { s with hp := { s.hp with stale := s.hp.stale.erase x } }

/-- R168, R169, R61, R170: CREATE and DELETE SUBMISSION RING, their checks in their order. A deleted ring is swept:
its ARMED, AWAITING and LISTENING slots are FREE and leave every place, its recurring STAGED and FIRING ones are
marked for their end. It retires in the same step when nothing of it is left. The zero reported for a ring number
above 15 is log entry 9, the zeros of an ABSENT ring log entry 5, the removed count in aux32 of DELETE log entry 31,
and its completion before SQ_RETIRED log entry 32. What a completion counts for at the hand-over of its write is log
entry 38. -/
def Obligations.SubmissionRingCommands : Prop :=
  (∀ (s : State) (c : Fin 8) (e : Entry), AdminWaits s c .createSq e → ∃ t, exec (.createSubmissionRing c) s = .next t
    ∧ (15 < bytesOf e 1 1 → Answered s t c 0 { status := .noRing, time := s.tb.value })
    ∧ (bytesOf e 1 1 = 0 → Answered s t c 0 { status := .noRing, time := s.tb.value, aux32 := 1 })
    ∧ ∀ n : Fin 16, n ≠ 0 → bytesOf e 1 1 = n.val →
      ((s.sq n).state ≠ .absent →
        Answered s t c 0
          { status := .alreadyExists, time := s.tb.value, aux32 := (s.sq n).state.code
            value := BitVec.ofNat 64 (s.sq n).tenant })
      ∧ ((s.sq n).state = .absent → (∀ q : Fin 16, bytesOf e 3 1 = q.val → (s.cq q).state ≠ .active) →
        Answered s t c 0 { status := .noRing, time := s.tb.value })
      ∧ ∀ (q : Fin 16) (tenant weight size : Nat) (base : Addr), (s.sq n).state = .absent → bytesOf e 3 1 = q.val →
        (s.cq q).state = .active → tenant = bytesOf e 2 1 → weight = bytesOf e 4 1 → size = bytesOf e 16 2 →
        base = e.extractLsb' 64 64 →
        ((tenant = 0 ∨ 15 < tenant ∨ base.toNat % 4096 ≠ 0 ∨ (∀ k, 3 ≤ k → k ≤ 12 → size ≠ 2 ^ k) ∨ weight = 0
            ∨ 8 < weight) →
          Answered s t c 0 { status := .badField, time := s.tb.value })
        ∧ (1 ≤ tenant → tenant ≤ 15 → base.toNat % 4096 = 0 → (∃ k, 3 ≤ k ∧ k ≤ 12 ∧ size = 2 ^ k) → 1 ≤ weight →
          weight ≤ 8 →
          Answered (s.setSq n
              { state := .active, tenant := tenant, base := base, size := size, head := 0, tail := 0, cq := q
                weight := weight, inFlight := false, fetchHold := false, credit := weight }) t c 0
            { status := .ok, time := s.tb.value, value := BitVec.ofNat 64 tenant }))
  ∧ ∀ (s : State) (c : Fin 8) (e : Entry), AdminWaits s c .deleteSq e → ∃ t, exec (.deleteSubmissionRing c) s = .next t
    ∧ (bytesOf e 1 1 = 0 → Answered s t c 0 { status := .notPermitted, time := s.tb.value })
    ∧ (15 < bytesOf e 1 1 → Answered s t c 0 { status := .noRing, time := s.tb.value })
    ∧ ∀ n : Fin 16, n ≠ 0 → bytesOf e 1 1 = n.val →
      ((s.sq n).state = .absent → Answered s t c 0 { status := .noRing, time := s.tb.value })
      ∧ ((s.sq n).state = .deleting → Answered s t c 0 { status := .wrongState, time := s.tb.value })
      ∧ ∀ u : State, ((s.sq n).state = .active ∨ (s.sq n).state = .faulted) →
        u = (s.setSq n { s.sq n with state := .deleting }).sweepRing n →
        ∃ v, Answered u v c 0
            { status := .ok, time := s.tb.value
              aux32 := s.ast.slots.countP (fun p => decide (p.2.ring = n
                ∧ (p.2.state = .armed ∨ p.2.state = .awaiting ∨ p.2.state = .listening)))
              value := BitVec.ofNat 64 (u.ast.slots.countP (fun p => decide (p.2.ring = n))) }
          ∧ u.rqe = (s.setSq n { s.sq n with state := .deleting }).rqe
          ∧ (StoreLaw s → ∀ id, (s.slot? id = none → u.slot? id = none) ∧ ∀ x, s.slot? id = some x →
              u.slot? id =
                if x.ring = n ∧ (x.state = .armed ∨ x.state = .awaiting ∨ x.state = .listening) then none
                else if x.ring = n ∧ (x.state = .staged ∨ x.state = .firing) ∧ x.period ≠ 0 then
                  some { x with endRequested := true }
                else some x)
          ∧ (∀ removed : Nat → Prop, StoreLaw s →
              (∀ id, removed id ↔ ∃ x, s.slot? id = some x ∧ x.ring = n
                ∧ (x.state = .armed ∨ x.state = .awaiting ∨ x.state = .listening)) →
              (∀ y, y ∈ u.dsp.schedule ↔ y ∈ s.dsp.schedule ∧ ¬ removed y.slot)
              ∧ (∀ y, y ∈ u.lnu.calendar ↔ y ∈ s.lnu.calendar ∧ ¬ removed y.slot)
              ∧ ∀ (l : Fin 4) id, id ∈ u.lnu.listen[l] ↔ id ∈ s.lnu.listen[l] ∧ ¬ removed id)
          ∧ u.hp = s.hp ∧ u.cu = s.cu ∧ u.tb = s.tb ∧ u.wtb = s.wtb
          ∧ ((∃ p ∈ u.ast.slots, p.2.ring = n) ∨ (s.sq n).inFlight = true → t = v ∧ (t.sq n).state = .deleting)
          ∧ ((∀ p ∈ u.ast.slots, p.2.ring ≠ n) → (s.sq n).inFlight = false →
              t.sq n = SqContext.absent
              ∧ t = (v.setSq n SqContext.absent).postCompletion 0
                  { kind := .notice, status := .sqRetired, source := n.val, time := s.tb.value
                    value := BitVec.ofNat 64 (s.sq n).tenant })

/-! ## Completions and notification (chapter 9) -/

/-- R185, R186, R189, R182: a RELEASE that is applied moves the consumer index. On an ACTIVE ring it re-arms the
notification: the state is ARMED, pending is the unreleased count that is left, and the hold timer restarts at 0 or is
stopped; one that is due is sent; and the held completions are written oldest first, each at the ring as it then
stands and with the notification that falls due by it, until the outbox is empty or there is no room (R177, R184,
R187). That it happens in this order is log entry 18. One that is not applied posts a BAD_RELEASE notice; while the
part is not READY it does nothing. What a completion counts for at the hand-over of its write is log entry 38. -/
def Obligations.ReleaseFreesEntries : Prop :=
  ∀ (s : State) (d : Word64) (q : Fin 16) (i r : Nat), i = (d.extractLsb' 0 16).toNat →
    q.val = (d.extractLsb' 16 4).toNat → r = (i + (s.cq q).size - (s.cq q).consumer) % (s.cq q).size →
    (s.hp.condition ≠ .ready → exec (.release d) s = .next s)
    ∧ (s.hp.condition = .ready → d.extractLsb' 20 44 = 0 → (s.cq q).state = .faulted → i < (s.cq q).size →
      r ≤ (s.cq q).unreleased →
      exec (.release d) s = .next (s.setCq q { s.cq q with consumer := i, unreleased := (s.cq q).unreleased - r }))
    ∧ (∀ (x : CqContext) (n : Nat), s.hp.condition = .ready → d.extractLsb' 20 44 = 0 → (s.cq q).state = .active →
      i < (s.cq q).size → r ≤ (s.cq q).unreleased →
      x = { s.cq q with
        consumer := i, unreleased := (s.cq q).unreleased - r, notify := .armed, pending := (s.cq q).unreleased - r
        holdTimer := if 0 < (s.cq q).unreleased - r then some 0 else none } →
      n = min (s.cq q).outbox.length ((s.cq q).size - ((s.cq q).unreleased - r) - (s.cq q).owed) →
      ∃ t, exec (.release d) s = .next t
        ∧ ((s.cq q).outbox = [] → t.cq q = x.settled ∧ HandsOver s t (x.notices q))
        ∧ t.cq q = { x.settled.wrote n with outbox := (s.cq q).outbox.drop n }
        ∧ HandsOver s t (x.notices q ++ x.settled.writes q ((s.cq q).outbox.take n))
        ∧ (t.cq q).consumer = i ∧ (t.cq q).owed = (s.cq q).owed
        ∧ (t.cq q).unreleased + (t.cq q).outbox.length = (s.cq q).unreleased - r + (s.cq q).outbox.length
        ∧ ((t.cq q).outbox = [] ∨ (t.cq q).room = 0)
        ∧ (∀ k ≠ q, t.cq k = s.cq k) ∧ t.rqe = s.rqe ∧ t.ast = s.ast ∧ t.dsp = s.dsp ∧ t.wtb = s.wtb ∧ t.lnu = s.lnu
        ∧ t.tb = s.tb)
    ∧ (s.hp.condition = .ready → (d.extractLsb' 20 44 ≠ 0 ∨ (s.cq q).state = .absent ∨ (s.cq q).size ≤ i
        ∨ (s.cq q).unreleased < r) →
      exec (.release d) s = .next (s.postCompletion 0
        { kind := .notice, status := .badRelease, source := q.val
          aux16 := if (s.cq q).state = .absent then 0 else (s.cq q).unreleased
          aux32 := (s.cq q).state.code, time := s.tb.value, value := BitVec.ofNat 64 i }))

/-- R181, R183, R191: a fire, edge or notice completion is written at once where the ring is ACTIVE with an empty
outbox and room, held in the outbox while the pool has an entry, lost and counted otherwise and at a FAULTED ring, and
discarded at an ABSENT ring, in FATAL and in teardown. R180, R190: a request completion for a FAULTED ring is lost and
counted, and gives up its reservation. R167: the context is freed by it. What a completion counts for at the hand-over
of its write is log entry 38. -/
def Obligations.CompletionsAreWrittenHeldOrLost : Prop :=
  (∀ (s : State) (q : Fin 16) (c : Fin 8) (r : Fin 16) (x : Result), (s.cq q).state = .faulted → (s.sq r).cq = q →
    (s.sq r).state ≠ .deleting →
    s.completeRequest c r x
      = (({ s with rqe := { s.rqe with
            ctxs := s.rqe.ctxs.set c .free, sqs := s.rqe.sqs.set r { s.sq r with inFlight := false } } }).setCq q
          { s.cq q with owed := (s.cq q).owed - 1, lost := min ((s.cq q).lost + 1) 65535 }))
  ∧ ∀ (s : State) (q : Fin 16) (c : Completion),
    (Lives s → (s.cq q).state = .active → (s.cq q).outbox = [] → 1 ≤ (s.cq q).room →
      HandsOver s (s.postCompletion q c) ((s.cq q).entryWrite q c :: (s.cq q).afterWrite.notices q)
      ∧ (s.postCompletion q c).cu = s.cu.set q (s.cq q).afterWrite.settled)
    ∧ (Lives s → (s.cq q).state = .active → ((s.cq q).outbox ≠ [] ∨ (s.cq q).room = 0) → s.poolUsed < 64 →
      s.postCompletion q c = s.setCq q { s.cq q with outbox := (s.cq q).outbox ++ [c] })
    ∧ (Lives s → (s.cq q).state = .active → ((s.cq q).outbox ≠ [] ∨ (s.cq q).room = 0) → 64 ≤ s.poolUsed →
      s.postCompletion q c = s.setCq q { s.cq q with lost := min ((s.cq q).lost + 1) 65535 })
    ∧ (Lives s → (s.cq q).state = .faulted →
      s.postCompletion q c = s.setCq q { s.cq q with lost := min ((s.cq q).lost + 1) 65535 })
    ∧ ((s.cq q).state = .absent → s.postCompletion q c = s)
    ∧ (¬ Lives s → s.postCompletion q c = s)

/-- R177, R187, R188: the write at the front of those that wait is issued in its order; a hold that has run out sends
the notification, which makes the ring SENT. A command whose condition does not hold does nothing (log entry 8). R178,
R183: the room of a ring, and what the write of an entry does to it: its address and lap, the counts, the wrap, the
lost count reported and cleared, in ARMED one more pending, the first of which starts the hold timer; and which
notification is then due. That these change at the hand-over of the write is log entry 38, the wrap of its address
past 2^64 − 1 log entry 39. R177, R199, R205: a CU write is placed on the link as it is handed over where no write
waits before it and the link takes one (log entry 2); it is else appended to the writes that wait, and with the
refused mark while the bus master enable is clear (log entry 15). Writes handed over in one step are taken in their
order. -/
def Obligations.WaitingWritesAndHoldTimers : Prop :=
  (∀ (s : State) (w : CuWrite) (rest : List Posted), s.hp.posted = .cu w false :: rest → s.hp.busMaster = true →
    ∃ t, exec .cuWriteAcceptedByLink s = .next t
      ∧ t = { s with hp := { s.hp with posted := rest, bus := s.hp.bus ++ [w.txn] } } ∧ t.handed = s.handed)
  ∧ (∀ (s : State) (q : Fin 16) (n : Nat), s.hp.condition = .ready → (s.cq q).state = .active →
    (s.cq q).holdTimer = some n →
    (1000 * (s.cq q).hold ≤ n → (s.cq q).notify = .armed → (s.cq q).notifyAddr ≠ 0 → 1 ≤ (s.cq q).pending →
      ∃ t, exec (.holdTimerExpired q) s = .next t
        ∧ HandsOver s t [.notify q (s.cq q).notifyAddr (s.cq q).notifyValue]
        ∧ t.cu = s.cu.set q { s.cq q with notify := .sent, pending := 0, holdTimer := none }
        ∧ t.rqe = s.rqe ∧ t.ast = s.ast ∧ t.dsp = s.dsp ∧ t.wtb = s.wtb ∧ t.lnu = s.lnu ∧ t.tb = s.tb)
    ∧ (n < 1000 * (s.cq q).hold → exec (.holdTimerExpired q) s = .next s))
  ∧ (∀ (h : HostPort) (w : CuWrite),
    (h.busMaster = true → h.posted = [] → 0 < h.credits →
      h.takeCuWrite w = { h with
        bus := h.bus ++ [match w with
          | .entry r a d => BusTxn.cuEntry r a d
          | .notify r a v => BusTxn.cuNotify r a v]
        credits := h.credits - 1 })
    ∧ (h.busMaster = true → (h.posted ≠ [] ∨ h.credits = 0) →
      h.takeCuWrite w = { h with posted := h.posted ++ [.cu w false] })
    ∧ (h.busMaster = false → h.takeCuWrite w = { h with posted := h.posted ++ [.cu w true] })
    ∧ h.takeAll [] = h ∧ (∀ ws, h.takeAll (w :: ws) = (h.takeCuWrite w).takeAll ws)
    ∧ ∀ s : State, s.handCuWrite w = { s with hp := s.hp.takeCuWrite w })
  ∧ ∀ (x : CqContext) (q : Fin 16) (c : Completion),
    x.room = x.size - x.unreleased - x.owed
    ∧ x.entryWrite q c = .entry q (x.base + BitVec.ofNat 64 (32 * x.produced)) (c.encode x.lap x.lost)
    ∧ (x.produced < x.size → x.afterWrite = { x with
        unreleased := x.unreleased + 1
        produced := if x.produced + 1 = x.size then 0 else x.produced + 1
        lap := if x.produced + 1 = x.size then !x.lap else x.lap
        lost := 0
        pending := if x.notify = .armed then x.pending + 1 else x.pending
        holdTimer := if x.notify = .armed ∧ x.pending = 0 then some 0 else x.holdTimer })
    ∧ ((x.state = .active ∧ x.notify = .armed ∧ x.notifyAddr ≠ 0
        ∧ (x.threshold ≤ x.pending ∨ (1 ≤ x.pending ∧ ∃ n, x.holdTimer = some n ∧ 1000 * x.hold ≤ n))) →
      x.notices q = [.notify q x.notifyAddr x.notifyValue]
      ∧ x.settled = { x with notify := .sent, pending := 0, holdTimer := none })
    ∧ (¬ (x.state = .active ∧ x.notify = .armed ∧ x.notifyAddr ≠ 0
        ∧ (x.threshold ≤ x.pending ∨ (1 ≤ x.pending ∧ ∃ n, x.holdTimer = some n ∧ 1000 * x.hold ≤ n))) →
      x.notices q = [] ∧ x.settled = x)

/-- R190, R191, R205, R93, R135, R204: a CU write that HP refuses makes its tenant ring FAULTED, its waiting writes
and its outbox lost, and posts CQ_FAULTED with the cause, the outbox entries discarded and the lost count; for ring 0
it puts the part into FATAL, with every engine stopped, every output line at its safe level and no write left to
issue; in teardown it is dropped. The refused mark is log entry 15, the count of lost entries log entry 16, and that a
lost entry which carried a LOST report counts 1, without the count it carried, log entry 42. What a completion counts
for at the hand-over of its write is log entry 38. -/
def Obligations.CompletionWritesFail : Prop :=
  ∀ (s : State) (w : CuWrite) (refused : Bool) (rest : List Posted), s.hp.posted = .cu w refused :: rest →
    (refused = true ∨ s.hp.busMaster = false) →
    (s.hp.condition = .ready → w.ring = 0 → ∃ t, exec .completionWriteFailed s = .next t
      ∧ t.hp.condition = .fatal ∧ t.hp.fatalBit = true ∧ t.hp.posted = [] ∧ t.hp.bus = s.hp.bus
      ∧ (∀ l, t.output l = { s.output l with level := (s.output l).safe })
      ∧ (∀ e, (s.engine e).state = .idle → t.engine e = s.engine e)
      ∧ (∀ e, (s.engine e).state = .bound → (t.engine e).state = .halted ∧ (t.engine e).slot = (s.engine e).slot)
      ∧ (∀ e, (s.engine e).state = .running →
          ((s.engine e).path.phase = .readWait ∨ (s.engine e).path.phase = .lineWait) →
          t.engine e = { s.engine e with stop := some .fatal })
      ∧ (∀ e, (s.engine e).state = .running →
          ((s.engine e).path.phase = .writeWait ∨ (s.engine e).path.phase = .waiting
            ∨ (s.engine e).path.phase = .pollGap) →
          (t.engine e).state = .halted ∧ (t.engine e).path.phase = .idle)
      ∧ t.cu = s.cu ∧ t.rqe = s.rqe ∧ t.ast = s.ast ∧ t.wtb = s.wtb ∧ t.tb = s.tb
      ∧ t.dsp.schedule = s.dsp.schedule ∧ t.lnu.calendar = s.lnu.calendar)
    ∧ (s.hp.condition = .ready → w.ring ≠ 0 → (s.cq w.ring).state = .active →
      ∃ t, exec .completionWriteFailed s = .next t
        ∧ t.cq w.ring = { s.cq w.ring with
            state := .faulted, outbox := []
            lost := min ((s.cq w.ring).lost
              + ((match w with
                  | .entry _ _ _ => 1
                  | .notify _ _ _ => 0)
                + rest.countP (fun p => match p with
                  | .cu (.entry r _ _) _ => r == w.ring
                  | _ => false)
                + (s.cq w.ring).outbox.length)) 65535 }
        ∧ (∀ v f, Posted.cu v f ∈ t.hp.posted → v.ring ≠ w.ring)
        ∧ ((s.cq 0).state = .active → (s.cq 0).outbox = [] → 1 ≤ (s.cq 0).room →
            HandsOver { s with hp := { s.hp with
                posted := rest.filter (fun p => match p with
                  | .cu v _ => v.ring != w.ring
                  | _ => true) } } t
              ((s.cq 0).entryWrite 0
                { kind := .notice, status := .cqFaulted, source := w.ring.val, aux16 := (s.cq w.ring).outbox.length
                  aux32 := (match w with
                    | .entry _ _ _ => 1
                    | .notify _ _ _ => 2)
                  time := s.tb.value, value := BitVec.ofNat 64 (t.cq w.ring).lost }
              :: (s.cq 0).afterWrite.notices 0))
        ∧ (∀ k : Fin 16, k ≠ 0 → k ≠ w.ring → t.cq k = s.cq k)
        ∧ t.rqe = s.rqe ∧ t.ast = s.ast ∧ t.dsp = s.dsp ∧ t.wtb = s.wtb ∧ t.lnu = s.lnu ∧ t.tb = s.tb)
    ∧ (s.hp.condition = .teardown →
      exec .completionWriteFailed s = .next { s with hp := { s.hp with posted := rest } })

/-- R192, R193, R194: CREATE, TUNE and DELETE COMPLETION RING, their checks in their order. That TUNE hands over its
completion before the notification is log entry 18, the zeros of an ABSENT ring are log entry 5, and the zero reported
for a ring number above 15 is log entry 9. What a completion counts for at the
hand-over of its write is log entry 38. -/
def Obligations.CompletionRingCommands : Prop :=
  (∀ (s : State) (c : Fin 8) (e : Entry), AdminWaits s c .createCq e → ∃ t, exec (.createCompletionRing c) s = .next t
    ∧ (15 < bytesOf e 1 1 → Answered s t c 0 { status := .noRing, time := s.tb.value })
    ∧ (bytesOf e 1 1 = 0 → Answered s t c 0 { status := .noRing, time := s.tb.value, aux32 := 1 })
    ∧ ∀ q : Fin 16, q ≠ 0 → bytesOf e 1 1 = q.val →
      ((s.cq q).state ≠ .absent →
        Answered s t c 0 { status := .alreadyExists, time := s.tb.value, aux32 := (s.cq q).state.code })
      ∧ ∀ (base naddr : Addr) (size : Nat), (s.cq q).state = .absent → base = e.extractLsb' 64 64 →
        naddr = e.extractLsb' 192 64 → size = bytesOf e 16 2 →
        ((base.toNat % 4096 ≠ 0 ∨ (∀ k, 3 ≤ k → k ≤ 12 → size ≠ 2 ^ k) ∨ naddr.toNat % 4 ≠ 0
            ∨ (naddr = 0 ∧ e.extractLsb' 256 32 ≠ 0) ∨ bytesOf e 20 1 = 0 ∨ 64 < bytesOf e 20 1) →
          Answered s t c 0 { status := .badField, time := s.tb.value })
        ∧ (base.toNat % 4096 = 0 → (∃ k, 3 ≤ k ∧ k ≤ 12 ∧ size = 2 ^ k) → naddr.toNat % 4 = 0 →
          (naddr = 0 → e.extractLsb' 256 32 = 0) → 1 ≤ bytesOf e 20 1 → bytesOf e 20 1 ≤ 64 →
          Answered (s.setCq q
              { state := .active, base := base, size := size, produced := 0, lap := true, consumer := 0, unreleased := 0
                owed := 0, outbox := [], lost := 0, notifyAddr := naddr, notifyValue := e.extractLsb' 256 32
                threshold := bytesOf e 20 1, hold := bytesOf e 18 2, notify := .armed, pending := 0
                holdTimer := none }) t c 0
            { status := .ok, time := s.tb.value, value := BitVec.ofNat 64 size }))
  ∧ (∀ (s : State) (c : Fin 8) (e : Entry), AdminWaits s c .tuneCq e → ∃ t, exec (.tuneCompletionRing c) s = .next t
    ∧ (15 < bytesOf e 1 1 → Answered s t c 0 { status := .noRing, time := s.tb.value })
    ∧ ∀ q : Fin 16, bytesOf e 1 1 = q.val →
      ((s.cq q).state = .absent → Answered s t c 0 { status := .noRing, time := s.tb.value })
      ∧ ((s.cq q).state = .faulted →
        Answered s t c 0
          { status := .wrongState, time := s.tb.value, aux32 := 2, value := packValue (s.cq q).hold 16 (s.cq q).threshold })
      ∧ ((s.cq q).state = .active → (notifyFieldsOf e).ok = false →
        Answered s t c 0
          { status := .badField, time := s.tb.value, aux32 := 1, value := packValue (s.cq q).hold 16 (s.cq q).threshold })
      ∧ ((s.cq q).state = .active → (notifyFieldsOf e).ok = true →
        ∃ u, t = u.notifyIfDue q ∧ HandsOver u t ((u.cq q).notices q) ∧ t.cu = u.cu.set q (u.cq q).settled
          ∧ Answered (s.setCq q
            { s.cq q with
              notifyAddr := e.extractLsb' 192 64, notifyValue := e.extractLsb' 256 32, threshold := bytesOf e 20 1
              hold := bytesOf e 18 2 }) u c 0
          { status := .ok, time := s.tb.value, aux32 := 1, value := packValue (bytesOf e 18 2) 16 (bytesOf e 20 1) }))
  ∧ (∀ e : Entry, (notifyFieldsOf e).ok = true ↔ bytesOf e 24 8 % 4 = 0 ∧ (bytesOf e 24 8 = 0 → bytesOf e 32 4 = 0)
      ∧ 1 ≤ bytesOf e 20 1 ∧ bytesOf e 20 1 ≤ 64)
  ∧ ∀ (s : State) (c : Fin 8) (e : Entry), AdminWaits s c .deleteCq e →
    ∃ t, exec (.deleteCompletionRing c) s = .next t
      ∧ (bytesOf e 1 1 = 0 → Answered s t c 0 { status := .notPermitted, time := s.tb.value, aux32 := 1 })
      ∧ (15 < bytesOf e 1 1 → Answered s t c 0 { status := .noRing, time := s.tb.value })
      ∧ ∀ q : Fin 16, q ≠ 0 → bytesOf e 1 1 = q.val →
        ((s.cq q).state = .absent → Answered s t c 0 { status := .noRing, time := s.tb.value })
        ∧ ((s.cq q).state ≠ .absent →
          ((∃ n, (s.sq n).state ≠ .absent ∧ (s.sq n).cq = q) ∨ ∃ l, (s.input l).reportRing = some q) →
          Answered s t c 0 { status := .inUse, time := s.tb.value, aux32 := (s.cq q).state.code })
        ∧ ((s.cq q).state ≠ .absent → (∀ n, (s.sq n).state ≠ .absent → (s.sq n).cq ≠ q) →
          (∀ l, (s.input l).reportRing ≠ some q) →
          Answered (s.setCq q CqContext.absent) t c 0
            { status := .ok, time := s.tb.value, aux32 := (s.cq q).state.code
              value := packValue (s.cq q).outbox.length 16 (s.cq q).lost })

/-- R158, R175, R178, R180, R182, R194: over every step what is unreleased and owed fits each ring, every reservation belongs
to one request in flight, the pool holds at most 64 completions, and a completion waits only for want of room. -/
def Obligations.CompletionLawIsKept : Prop :=
  ∀ s t : State, CompletionLaw s → step s = .next t → CompletionLaw t

/-! ## Host port and control (chapter 10) -/

/-- R201, R202, R154, R196, R213: ENABLE in OFF builds the two rings 0 from valid definitions, or sets CONFIG_ERROR and builds
nothing; where ENABLE is already 1 it does nothing; in teardown it is stored. The weight and the credit 0 of ring 0, which
are not used, are log entry 5. -/
def Obligations.EnableBuildsTheRings : Prop :=
  ∀ s : State,
    (s.hp.condition = .off → s.hp.enable = false → adminValid s.hp.adminSq = true → adminValid s.hp.adminCq = true →
      exec .enable s = .next
        { s with
          hp := { s.hp with enable := true, condition := .ready, latched := some (s.hp.adminSq, s.hp.adminCq) }
          rqe := { s.rqe with
            sqs := s.rqe.sqs.set 0
              { state := .active, tenant := 0, base := s.hp.adminSq &&& ~~~(0xFFF : Word64)
                size := 2 ^ (s.hp.adminSq.extractLsb' 0 4).toNat, head := 0, tail := 0, cq := 0, weight := 0
                inFlight := false, fetchHold := false, credit := 0 } }
          cu := s.cu.set 0
            { state := .active, base := s.hp.adminCq &&& ~~~(0xFFF : Word64)
              size := 2 ^ (s.hp.adminCq.extractLsb' 0 4).toNat, produced := 0, lap := true, consumer := 0, unreleased := 0
              owed := 0, outbox := [], lost := 0, notifyAddr := 0, notifyValue := 0, threshold := 1, hold := 0
              notify := .armed, pending := 0, holdTimer := none } })
    ∧ (s.hp.condition = .off → s.hp.enable = false → (adminValid s.hp.adminSq = false ∨ adminValid s.hp.adminCq = false) →
      exec .enable s = .next { s with hp := { s.hp with enable := true, configError := true } })
    ∧ (s.hp.condition ≠ .teardown → s.hp.enable = true → exec .enable s = .next s)
    ∧ (s.hp.condition = .teardown → exec .enable s = .next { s with hp := { s.hp with enable := true } })
    ∧ ∀ d : Word64, adminValid d = true ↔
        (∃ k, 3 ≤ k ∧ k ≤ 12 ∧ (d.extractLsb' 0 4).toNat = k) ∧ d.extractLsb' 4 8 = 0

/-- R201, R203, R204, R63, R94, R136, R150, R173, R195: TEARDOWN stops every block in one step and keeps what the
chapters say is kept. An engine whose read or LINE request is in flight waits for its answer with its slot, every
other one is IDLE at once and its slot FREE (R94, R113); CU writes that wait for the link stay in their order (R195),
and of the other waiting writes none does (log entry 28). TEARDOWN_END comes when every engine is IDLE and no CU write
waits, and then takes the enable if ENABLE is 1. A step event not yet acted on is discarded: at LNU by R130, at DSP by
log entry 29. The zeros of ABSENT rings are log entry 5. A command whose condition does not hold does nothing (log
entry 8). With it LNU's input lines resume: the level of each is unknown again until its next sample (R136, R118, log
entry 6). -/
def Obligations.TeardownEmptiesThePart : Prop :=
  (∀ s : State, (s.hp.condition = .ready ∨ s.hp.condition = .fatal ∨ (s.hp.condition = .off ∧ s.hp.enable = true)) →
    ∃ t, exec .teardown s = .next t ∧ t.hp.condition = .teardown ∧ t.hp.enable = false ∧ t.hp.fatalBit = s.hp.fatalBit
      ∧ t.hp.configError = s.hp.configError ∧ t.hp.timeLatch = s.hp.timeLatch
      ∧ (∀ r, t.sq r = SqContext.absent) ∧ (∀ c, t.ctx c = .free) ∧ t.rqe.pointer = 1 ∧ (∀ q, t.cq q = CqContext.absent)
      ∧ (∀ e, (t.engine e).state = .idle ∨ ((t.engine e).state = .running ∧ (t.engine e).stop = some .teardown
          ∧ ((t.engine e).path.phase = .readWait ∨ (t.engine e).path.phase = .lineWait)))
      ∧ (∀ e, (s.engine e).state = .running →
          ((s.engine e).path.phase = .readWait ∨ (s.engine e).path.phase = .lineWait) →
          t.engine e = { s.engine e with stop := some .teardown }
          ∧ (StoreLaw s → PlacementLaw s → t.slot? (s.engine e).slot = s.slot? (s.engine e).slot))
      ∧ (∀ e, ((s.engine e).state = .bound ∨ (s.engine e).state = .halted ∨ ((s.engine e).state = .running
          ∧ (s.engine e).path.phase ≠ .readWait ∧ (s.engine e).path.phase ≠ .lineWait)) →
          t.engine e = Engine.released)
      ∧ (∀ id, t.slot? id ≠ none → ∃ e, (t.engine e).state = .running ∧ (t.engine e).slot = id)
      ∧ t.hp.posted = s.hp.posted.filter (fun p => match p with
          | .cu _ _ => true
          | _ => false)
      ∧ t.hp.bus = s.hp.bus ∧ t.hp.credits = s.hp.credits ∧ t.hp.busMaster = s.hp.busMaster
      ∧ t.dsp.schedule = [] ∧ t.dsp.hold = false ∧ t.dsp.lead = s.dsp.lead ∧ t.dsp.budget = s.dsp.budget
      ∧ t.dsp.steps = [] ∧ t.lnu.steps = [] ∧ t.lnu.calendar = [] ∧ (∀ l : Fin 4, t.lnu.listen[l] = [])
      ∧ (∀ l, t.output l = { s.output l with level := (s.output l).safe })
      ∧ (∀ l, t.input l = { s.input l with report := none, reportRing := none, lastEdge := none, suppressed := 0 })
      ∧ t.wtb = s.wtb ∧ t.tb = s.tb ∧ t.ast.quotas = s.ast.quotas ∧ t.ast.seq = s.ast.seq)
  ∧ (∀ s : State, s.hp.condition = .off → s.hp.enable = false → exec .teardown s = .next s)
  ∧ ∀ s : State, s.hp.condition = .teardown →
    exec .teardown s = .next { s with hp := { s.hp with enable := false } }
    ∧ ((∀ e, (s.engine e).state = .idle ∧ (s.engine e).path.phase = .idle) → (∀ w f, Posted.cu w f ∉ s.hp.posted) →
      ∃ t, exec .teardownEnd s = .next t ∧ t.hp.fatalBit = false
        ∧ (s.hp.enable = false → t.hp.condition = .off ∧ t.hp.configError = false ∧ t.hp.latched = none ∧ t.rqe = s.rqe
            ∧ t.cu = s.cu)
        ∧ (s.hp.enable = true → adminValid s.hp.adminSq = true → adminValid s.hp.adminCq = true →
            t.hp.condition = .ready ∧ t.hp.latched = some (s.hp.adminSq, s.hp.adminCq) ∧ (t.sq 0).state = .active
            ∧ (t.cq 0).state = .active)
        ∧ (s.hp.enable = true → (adminValid s.hp.adminSq = false ∨ adminValid s.hp.adminCq = false) →
            t.hp.condition = .off ∧ t.hp.configError = true)
        ∧ t.tb = s.tb ∧ t.wtb = s.wtb ∧ t.ast = s.ast ∧ t.dsp = s.dsp ∧ t.lnu.outputs = s.lnu.outputs
        ∧ ∀ l, t.input l = { s.input l with level := none, sampled := true })
    ∧ (((∃ e, (s.engine e).state ≠ .idle) ∨ ∃ w f, Posted.cu w f ∈ s.hp.posted) → exec .teardownEnd s = .next s)

/-- R206, R6, R64, R95, R114, R137, R138, R174, R196: every kind of reset, in any condition, leaves the values of the reset
tables, and all the laws of the device hold there. The values that only
log entries 1, 2, 3, 5 and 6 give are not stated; the empty list of stale reads is the model's own field (log entry 4). -/
def Obligations.ResetLeavesTheResetTables : Prop :=
  (∀ (k : ResetKind) (s : State), ∃ t, exec (.reset k) s = .next t
    ∧ t.tb = { value := 0, fraction := 0, state := .unset, slew := .none } ∧ t.hp.timeLatch = 0
    ∧ t.hp.condition = .off ∧ t.hp.enable = false ∧ t.hp.fatalBit = false ∧ t.hp.configError = false
    ∧ t.hp.adminSq = 0 ∧ t.hp.adminCq = 0 ∧ t.hp.latched = none ∧ t.hp.posted = [] ∧ t.hp.stale = []
    ∧ t.ast.slots = [] ∧ t.ast.seq = 0 ∧ (∀ n : Fin 16, t.ast.quotas[n] = 64)
    ∧ t.dsp.schedule = [] ∧ t.dsp.lead = 20 ∧ t.dsp.budget = 10 ∧ t.dsp.hold = false ∧ t.dsp.steps = []
    ∧ (∀ e, (t.engine e).state = .idle ∧ (t.engine e).path.phase = .idle)
    ∧ t.lnu.calendar = [] ∧ (∀ l : Fin 4, t.lnu.listen[l] = []) ∧ t.lnu.steps = []
    ∧ (∀ l, t.output l = { owner := none, safe := .low, level := .low })
    ∧ (∀ l, (t.input l).enabled = false ∧ (t.input l).report = none ∧ (t.input l).reportRing = none
        ∧ (t.input l).spacing = 0 ∧ (t.input l).lastEdge = none ∧ (t.input l).suppressed = 0)
    ∧ (∀ i : Fin 32, t.wtb[i] = none)
    ∧ (∀ r, (t.sq r).state = .absent ∧ (t.sq r).inFlight = false ∧ (t.sq r).fetchHold = false ∧ (t.sq r).credit = 0)
    ∧ (∀ c, t.ctx c = .free) ∧ t.rqe.pointer = 1
    ∧ (∀ q, (t.cq q).state = .absent ∧ (t.cq q).lost = 0 ∧ (t.cq q).outbox = []))
  ∧ TimebaseLaw State.reset ∧ WindowLaw State.reset ∧ OutputLaw State.reset ∧ ParameterLaw State.reset
  ∧ OrderLaw State.reset ∧ StoreLaw State.reset ∧ PlacementLaw State.reset ∧ CompletionLaw State.reset

/-- R197, R198, R199, R200: writes of the register window: ADMIN_SQ and ADMIN_CQ store what is written, whole or by
halves; IDENT, STATUS and TIME, the high halves of CONTROL, POST and RELEASE, offsets from 64 on and malformed
accesses ignore it. The bus master enable is stored. Reads of the window: IDENT is fixed, CONTROL shows ENABLE, STATUS
the six fields, ADMIN_SQ and ADMIN_CQ what was written, POST and RELEASE 0; a 32-bit read gives one half, but for the
high half of TIME; every other access reads 0. A write that reaches CONTROL is ENABLE or TEARDOWN by its bit 0; one
that reaches POST or RELEASE is that command with the data written; a 32-bit write of their low half takes the high
half as 0. -/
def Obligations.RegisterWindowWrites : Prop :=
  (∀ s : State,
    s.registerRead 0x00 .qword = 0x000000010F407A31
    ∧ s.registerRead 0x08 .qword = (if s.hp.enable then 1 else 0)
    ∧ (∀ n < 64, (s.registerRead 0x10 .qword).getLsbD n =
        match n with
        | 0 => s.hp.condition == .ready
        | 1 => s.hp.condition == .teardown
        | 2 => s.hp.fatalBit
        | 3 => s.hp.configError
        | 4 => s.tb.state == .running
        | 5 => s.dsp.hold
        | _ => false)
    ∧ s.registerRead 0x18 .qword = s.hp.adminSq ∧ s.registerRead 0x20 .qword = s.hp.adminCq
    ∧ s.registerRead 0x28 .qword = 0 ∧ s.registerRead 0x30 .qword = 0
    ∧ (∀ o : BitVec 12, o.toNat % 8 = 0 →
        s.registerRead o .dword = ((s.registerRead o .qword).extractLsb' 0 32).setWidth 64)
    ∧ (∀ o : BitVec 12, o.toNat % 8 = 0 → o ≠ 0x38 →
        s.registerRead (o + 4) .dword = ((s.registerRead o .qword).extractLsb' 32 32).setWidth 64)
    ∧ (∀ o : BitVec 12, o.toNat % 8 ≠ 0 → s.registerRead o .qword = 0)
    ∧ (∀ o : BitVec 12, o.toNat % 4 ≠ 0 → s.registerRead o .dword = 0)
    ∧ (∀ o a, 64 ≤ o.toNat → s.registerRead o a = 0)
    ∧ ∀ o, s.registerRead o .other = 0)
  ∧ (∀ (s : State) (on : Bool), exec (.busMasterEnableChange on) s = .next { s with hp := { s.hp with busMaster := on } })
  ∧ ∀ (s : State) (d : Word64),
    exec (.registerWrite 0x18 .qword d) s = .next { s with hp := { s.hp with adminSq := d } }
    ∧ exec (.registerWrite 0x20 .qword d) s = .next { s with hp := { s.hp with adminCq := d } }
    ∧ exec (.registerWrite 0x18 .dword d) s = .next { s with hp := { s.hp with
        adminSq := s.hp.adminSq.extractLsb' 32 32 ++ d.extractLsb' 0 32 } }
    ∧ exec (.registerWrite 0x1C .dword d) s = .next { s with hp := { s.hp with
        adminSq := d.extractLsb' 0 32 ++ s.hp.adminSq.extractLsb' 0 32 } }
    ∧ exec (.registerWrite 0x20 .dword d) s = .next { s with hp := { s.hp with
        adminCq := s.hp.adminCq.extractLsb' 32 32 ++ d.extractLsb' 0 32 } }
    ∧ exec (.registerWrite 0x24 .dword d) s = .next { s with hp := { s.hp with
        adminCq := d.extractLsb' 0 32 ++ s.hp.adminCq.extractLsb' 0 32 } }
    ∧ (∀ o, (o = 0x00 ∨ o = 0x10 ∨ o = 0x38) → exec (.registerWrite o .qword d) s = .next s)
    ∧ (∀ o, (o = 0x00 ∨ o = 0x04 ∨ o = 0x0C ∨ o = 0x10 ∨ o = 0x14 ∨ o = 0x2C ∨ o = 0x34 ∨ o = 0x38 ∨ o = 0x3C) →
      exec (.registerWrite o .dword d) s = .next s)
    ∧ (∀ o : BitVec 12, o.toNat % 8 ≠ 0 → exec (.registerWrite o .qword d) s = .next s)
    ∧ (∀ o : BitVec 12, o.toNat % 4 ≠ 0 → exec (.registerWrite o .dword d) s = .next s)
    ∧ (∀ o a, 64 ≤ o.toNat → exec (.registerWrite o a d) s = .next s)
    ∧ (∀ o, exec (.registerWrite o .other d) s = .next s)
    ∧ (∀ a, (a = .qword ∨ a = .dword) →
        exec (.registerWrite 0x08 a d) s = if d.getLsbD 0 then exec .enable s else exec .teardown s)
    ∧ exec (.registerWrite 0x28 .qword d) s = exec (.post d) s
    ∧ exec (.registerWrite 0x28 .dword d) s = exec (.post ((d.extractLsb' 0 32).setWidth 64)) s
    ∧ exec (.registerWrite 0x30 .qword d) s = exec (.release d) s
    ∧ exec (.registerWrite 0x30 .dword d) s = exec (.release ((d.extractLsb' 0 32).setWidth 64)) s

/-- R207, R212: IDENTIFY refuses an address that is 0 or not a multiple of 64; otherwise its record is handed to HP
behind the writes that wait, and the command completes when the record has been issued whole, or with BUS_ERROR when
HP refuses it. The mark of a record that HP refuses at the hand-over is log entry 15, one transaction for the record
log entry 10, and the part of a refused record that is written log entry 20. What a completion counts for at the
hand-over of its write is log entry 38. -/
def Obligations.IdentifyWritesTheRecord : Prop :=
  (∀ (s : State) (c : Fin 8) (e : Entry) (a : Addr), AdminWaits s c .identify e → a = e.extractLsb' 64 64 →
    ((a = 0 ∨ a.toNat % 64 ≠ 0) → ∃ t, exec (.identify c) s = .next t
      ∧ Answered s t c 0 { status := .badField, time := s.tb.value, aux32 := 1, value := a })
    ∧ (∀ h, s.ctx c = .effect 0 h e .waiting → a ≠ 0 → a.toNat % 64 = 0 →
      exec (.identify c) s = .next
        { s with
          rqe := { s.rqe with ctxs := s.rqe.ctxs.set c (.effect 0 h e (.identity s.tb.value)) }
          hp := { s.hp with posted := s.hp.posted ++ [.identity c a (!s.hp.busMaster)] } }))
  ∧ (∀ (s : State) (c : Fin 8) (n : Fin 64) (h : Nat) (e : Entry) (sample : Nat) (a : Addr) (refused : Bool)
      (rest : List Posted),
    s.hp.condition = .ready → s.ctx c = .effect 0 h e (.identity sample) → s.hp.posted = .identity c a refused :: rest →
    (s.sq 0).state = .active → (s.cq (s.sq 0).cq).state = .active →
    ∃ t, exec (.identifyRecordIssued c n) s = .next t
      ∧ (refused = false → s.hp.busMaster = true →
        Answered { s with hp := { s.hp with posted := rest, bus := s.hp.bus ++ [.identity c a 64 identityRecord] } } t c 0
          { status := .ok, time := sample, aux32 := 1, value := a })
      ∧ (refused = false → s.hp.busMaster = false → n ≠ 0 →
        Answered { s with hp := { s.hp with posted := rest, bus := s.hp.bus ++ [.identity c a n.val identityRecord] } } t c 0
          { status := .busError, time := sample, aux32 := 1, value := a })
      ∧ ((refused = true ∨ (s.hp.busMaster = false ∧ n = 0)) →
        Answered { s with hp := { s.hp with posted := rest } } t c 0
          { status := .busError, time := sample, aux32 := 1, value := a }))
  ∧ bytesOf identityRecord 0 2 = 0x7A31 ∧ bytesOf identityRecord 2 2 = 0x0F40 ∧ bytesOf identityRecord 4 2 = 1
  ∧ bytesOf identityRecord 6 2 = 0 ∧ bytesOf identityRecord 8 2 = 16 ∧ bytesOf identityRecord 10 2 = 16
  ∧ bytesOf identityRecord 12 1 = 15 ∧ bytesOf identityRecord 13 1 = 4 ∧ bytesOf identityRecord 14 1 = 4
  ∧ bytesOf identityRecord 15 1 = 4 ∧ bytesOf identityRecord 16 2 = 1024 ∧ bytesOf identityRecord 18 1 = 8
  ∧ bytesOf identityRecord 19 1 = 8 ∧ bytesOf identityRecord 20 1 = 64 ∧ bytesOf identityRecord 21 1 = 32
  ∧ bytesOf identityRecord 22 2 = 0 ∧ bytesOf identityRecord 24 4 = 8 ∧ bytesOf identityRecord 28 4 = 100
  ∧ bytesOf identityRecord 32 32 = 0

end
end

