-- ==== Sys2Proof/Laws/State.lean ====
section
/-! SUPPORT. One lemma per field per update of the state: what an update leaves alone, and what its accessor reads back. -/

namespace Sys2Proof.Machine

open Sys2Proof

/-! ## setSq -/

@[simp] theorem State.setSq_pending (s : State) (r : Fin 16) (x : SqContext) : (s.setSq r x).pending = s.pending := rfl
@[simp] theorem State.setSq_hp (s : State) (r : Fin 16) (x : SqContext) : (s.setSq r x).hp = s.hp := rfl
@[simp] theorem State.setSq_ast (s : State) (r : Fin 16) (x : SqContext) : (s.setSq r x).ast = s.ast := rfl
@[simp] theorem State.setSq_dsp (s : State) (r : Fin 16) (x : SqContext) : (s.setSq r x).dsp = s.dsp := rfl
@[simp] theorem State.setSq_wtb (s : State) (r : Fin 16) (x : SqContext) : (s.setSq r x).wtb = s.wtb := rfl
@[simp] theorem State.setSq_lnu (s : State) (r : Fin 16) (x : SqContext) : (s.setSq r x).lnu = s.lnu := rfl
@[simp] theorem State.setSq_tb (s : State) (r : Fin 16) (x : SqContext) : (s.setSq r x).tb = s.tb := rfl
@[simp] theorem State.setSq_cu (s : State) (r : Fin 16) (x : SqContext) : (s.setSq r x).cu = s.cu := rfl
@[simp] theorem State.setSq_rqe_ctxs (s : State) (r : Fin 16) (x : SqContext) : (s.setSq r x).rqe.ctxs = s.rqe.ctxs := rfl
@[simp] theorem State.setSq_rqe_pointer (s : State) (r : Fin 16) (x : SqContext) : (s.setSq r x).rqe.pointer = s.rqe.pointer := rfl

/-! ## setCtx -/

@[simp] theorem State.setCtx_pending (s : State) (c : Fin 8) (x : ReqContext) : (s.setCtx c x).pending = s.pending := rfl
@[simp] theorem State.setCtx_hp (s : State) (c : Fin 8) (x : ReqContext) : (s.setCtx c x).hp = s.hp := rfl
@[simp] theorem State.setCtx_ast (s : State) (c : Fin 8) (x : ReqContext) : (s.setCtx c x).ast = s.ast := rfl
@[simp] theorem State.setCtx_dsp (s : State) (c : Fin 8) (x : ReqContext) : (s.setCtx c x).dsp = s.dsp := rfl
@[simp] theorem State.setCtx_wtb (s : State) (c : Fin 8) (x : ReqContext) : (s.setCtx c x).wtb = s.wtb := rfl
@[simp] theorem State.setCtx_lnu (s : State) (c : Fin 8) (x : ReqContext) : (s.setCtx c x).lnu = s.lnu := rfl
@[simp] theorem State.setCtx_tb (s : State) (c : Fin 8) (x : ReqContext) : (s.setCtx c x).tb = s.tb := rfl
@[simp] theorem State.setCtx_cu (s : State) (c : Fin 8) (x : ReqContext) : (s.setCtx c x).cu = s.cu := rfl
@[simp] theorem State.setCtx_rqe_sqs (s : State) (c : Fin 8) (x : ReqContext) : (s.setCtx c x).rqe.sqs = s.rqe.sqs := rfl
@[simp] theorem State.setCtx_rqe_pointer (s : State) (c : Fin 8) (x : ReqContext) : (s.setCtx c x).rqe.pointer = s.rqe.pointer := rfl

/-! ## setCq -/

@[simp] theorem State.setCq_pending (s : State) (q : Fin 16) (x : CqContext) : (s.setCq q x).pending = s.pending := rfl
@[simp] theorem State.setCq_hp (s : State) (q : Fin 16) (x : CqContext) : (s.setCq q x).hp = s.hp := rfl
@[simp] theorem State.setCq_rqe (s : State) (q : Fin 16) (x : CqContext) : (s.setCq q x).rqe = s.rqe := rfl
@[simp] theorem State.setCq_ast (s : State) (q : Fin 16) (x : CqContext) : (s.setCq q x).ast = s.ast := rfl
@[simp] theorem State.setCq_dsp (s : State) (q : Fin 16) (x : CqContext) : (s.setCq q x).dsp = s.dsp := rfl
@[simp] theorem State.setCq_wtb (s : State) (q : Fin 16) (x : CqContext) : (s.setCq q x).wtb = s.wtb := rfl
@[simp] theorem State.setCq_lnu (s : State) (q : Fin 16) (x : CqContext) : (s.setCq q x).lnu = s.lnu := rfl
@[simp] theorem State.setCq_tb (s : State) (q : Fin 16) (x : CqContext) : (s.setCq q x).tb = s.tb := rfl

/-! ## setEngine -/

@[simp] theorem State.setEngine_pending (s : State) (e : Fin 4) (x : Engine) : (s.setEngine e x).pending = s.pending := rfl
@[simp] theorem State.setEngine_hp (s : State) (e : Fin 4) (x : Engine) : (s.setEngine e x).hp = s.hp := rfl
@[simp] theorem State.setEngine_rqe (s : State) (e : Fin 4) (x : Engine) : (s.setEngine e x).rqe = s.rqe := rfl
@[simp] theorem State.setEngine_ast (s : State) (e : Fin 4) (x : Engine) : (s.setEngine e x).ast = s.ast := rfl
@[simp] theorem State.setEngine_wtb (s : State) (e : Fin 4) (x : Engine) : (s.setEngine e x).wtb = s.wtb := rfl
@[simp] theorem State.setEngine_lnu (s : State) (e : Fin 4) (x : Engine) : (s.setEngine e x).lnu = s.lnu := rfl
@[simp] theorem State.setEngine_tb (s : State) (e : Fin 4) (x : Engine) : (s.setEngine e x).tb = s.tb := rfl
@[simp] theorem State.setEngine_cu (s : State) (e : Fin 4) (x : Engine) : (s.setEngine e x).cu = s.cu := rfl
@[simp] theorem State.setEngine_dsp_schedule (s : State) (e : Fin 4) (x : Engine) : (s.setEngine e x).dsp.schedule = s.dsp.schedule := rfl
@[simp] theorem State.setEngine_dsp_lead (s : State) (e : Fin 4) (x : Engine) : (s.setEngine e x).dsp.lead = s.dsp.lead := rfl
@[simp] theorem State.setEngine_dsp_budget (s : State) (e : Fin 4) (x : Engine) : (s.setEngine e x).dsp.budget = s.dsp.budget := rfl
@[simp] theorem State.setEngine_dsp_hold (s : State) (e : Fin 4) (x : Engine) : (s.setEngine e x).dsp.hold = s.dsp.hold := rfl
@[simp] theorem State.setEngine_dsp_steps (s : State) (e : Fin 4) (x : Engine) : (s.setEngine e x).dsp.steps = s.dsp.steps := rfl

/-! ## setInput -/

@[simp] theorem State.setInput_pending (s : State) (l : Fin 4) (x : InputLine) : (s.setInput l x).pending = s.pending := rfl
@[simp] theorem State.setInput_hp (s : State) (l : Fin 4) (x : InputLine) : (s.setInput l x).hp = s.hp := rfl
@[simp] theorem State.setInput_rqe (s : State) (l : Fin 4) (x : InputLine) : (s.setInput l x).rqe = s.rqe := rfl
@[simp] theorem State.setInput_ast (s : State) (l : Fin 4) (x : InputLine) : (s.setInput l x).ast = s.ast := rfl
@[simp] theorem State.setInput_dsp (s : State) (l : Fin 4) (x : InputLine) : (s.setInput l x).dsp = s.dsp := rfl
@[simp] theorem State.setInput_wtb (s : State) (l : Fin 4) (x : InputLine) : (s.setInput l x).wtb = s.wtb := rfl
@[simp] theorem State.setInput_tb (s : State) (l : Fin 4) (x : InputLine) : (s.setInput l x).tb = s.tb := rfl
@[simp] theorem State.setInput_cu (s : State) (l : Fin 4) (x : InputLine) : (s.setInput l x).cu = s.cu := rfl
@[simp] theorem State.setInput_lnu_calendar (s : State) (l : Fin 4) (x : InputLine) : (s.setInput l x).lnu.calendar = s.lnu.calendar := rfl
@[simp] theorem State.setInput_lnu_listen (s : State) (l : Fin 4) (x : InputLine) : (s.setInput l x).lnu.listen = s.lnu.listen := rfl
@[simp] theorem State.setInput_lnu_outputs (s : State) (l : Fin 4) (x : InputLine) : (s.setInput l x).lnu.outputs = s.lnu.outputs := rfl
@[simp] theorem State.setInput_lnu_steps (s : State) (l : Fin 4) (x : InputLine) : (s.setInput l x).lnu.steps = s.lnu.steps := rfl

/-! ## setOutput -/

@[simp] theorem State.setOutput_pending (s : State) (l : Fin 4) (x : OutputLine) : (s.setOutput l x).pending = s.pending := rfl
@[simp] theorem State.setOutput_hp (s : State) (l : Fin 4) (x : OutputLine) : (s.setOutput l x).hp = s.hp := rfl
@[simp] theorem State.setOutput_rqe (s : State) (l : Fin 4) (x : OutputLine) : (s.setOutput l x).rqe = s.rqe := rfl
@[simp] theorem State.setOutput_ast (s : State) (l : Fin 4) (x : OutputLine) : (s.setOutput l x).ast = s.ast := rfl
@[simp] theorem State.setOutput_dsp (s : State) (l : Fin 4) (x : OutputLine) : (s.setOutput l x).dsp = s.dsp := rfl
@[simp] theorem State.setOutput_wtb (s : State) (l : Fin 4) (x : OutputLine) : (s.setOutput l x).wtb = s.wtb := rfl
@[simp] theorem State.setOutput_tb (s : State) (l : Fin 4) (x : OutputLine) : (s.setOutput l x).tb = s.tb := rfl
@[simp] theorem State.setOutput_cu (s : State) (l : Fin 4) (x : OutputLine) : (s.setOutput l x).cu = s.cu := rfl
@[simp] theorem State.setOutput_lnu_inputs (s : State) (l : Fin 4) (x : OutputLine) : (s.setOutput l x).lnu.inputs = s.lnu.inputs := rfl
@[simp] theorem State.setOutput_lnu_calendar (s : State) (l : Fin 4) (x : OutputLine) : (s.setOutput l x).lnu.calendar = s.lnu.calendar := rfl
@[simp] theorem State.setOutput_lnu_listen (s : State) (l : Fin 4) (x : OutputLine) : (s.setOutput l x).lnu.listen = s.lnu.listen := rfl
@[simp] theorem State.setOutput_lnu_steps (s : State) (l : Fin 4) (x : OutputLine) : (s.setOutput l x).lnu.steps = s.lnu.steps := rfl

/-! ## setSlot -/

@[simp] theorem State.setSlot_pending (s : State) (n : Nat) (x : Slot) : (s.setSlot n x).pending = s.pending := rfl
@[simp] theorem State.setSlot_hp (s : State) (n : Nat) (x : Slot) : (s.setSlot n x).hp = s.hp := rfl
@[simp] theorem State.setSlot_rqe (s : State) (n : Nat) (x : Slot) : (s.setSlot n x).rqe = s.rqe := rfl
@[simp] theorem State.setSlot_dsp (s : State) (n : Nat) (x : Slot) : (s.setSlot n x).dsp = s.dsp := rfl
@[simp] theorem State.setSlot_wtb (s : State) (n : Nat) (x : Slot) : (s.setSlot n x).wtb = s.wtb := rfl
@[simp] theorem State.setSlot_lnu (s : State) (n : Nat) (x : Slot) : (s.setSlot n x).lnu = s.lnu := rfl
@[simp] theorem State.setSlot_tb (s : State) (n : Nat) (x : Slot) : (s.setSlot n x).tb = s.tb := rfl
@[simp] theorem State.setSlot_cu (s : State) (n : Nat) (x : Slot) : (s.setSlot n x).cu = s.cu := rfl
@[simp] theorem State.setSlot_ast_quotas (s : State) (n : Nat) (x : Slot) : (s.setSlot n x).ast.quotas = s.ast.quotas := rfl
@[simp] theorem State.setSlot_ast_seq (s : State) (n : Nat) (x : Slot) : (s.setSlot n x).ast.seq = s.ast.seq := rfl

/-! ## place -/

@[simp] theorem State.place_pending (s : State) (b : BusTxn) : (s.place b).pending = s.pending := rfl
@[simp] theorem State.place_rqe (s : State) (b : BusTxn) : (s.place b).rqe = s.rqe := rfl
@[simp] theorem State.place_ast (s : State) (b : BusTxn) : (s.place b).ast = s.ast := rfl
@[simp] theorem State.place_dsp (s : State) (b : BusTxn) : (s.place b).dsp = s.dsp := rfl
@[simp] theorem State.place_wtb (s : State) (b : BusTxn) : (s.place b).wtb = s.wtb := rfl
@[simp] theorem State.place_lnu (s : State) (b : BusTxn) : (s.place b).lnu = s.lnu := rfl
@[simp] theorem State.place_tb (s : State) (b : BusTxn) : (s.place b).tb = s.tb := rfl
@[simp] theorem State.place_cu (s : State) (b : BusTxn) : (s.place b).cu = s.cu := rfl
@[simp] theorem State.place_hp_condition (s : State) (b : BusTxn) : (s.place b).hp.condition = s.hp.condition := rfl
@[simp] theorem State.place_hp_enable (s : State) (b : BusTxn) : (s.place b).hp.enable = s.hp.enable := rfl
@[simp] theorem State.place_hp_fatalBit (s : State) (b : BusTxn) : (s.place b).hp.fatalBit = s.hp.fatalBit := rfl
@[simp] theorem State.place_hp_configError (s : State) (b : BusTxn) : (s.place b).hp.configError = s.hp.configError := rfl
@[simp] theorem State.place_hp_adminSq (s : State) (b : BusTxn) : (s.place b).hp.adminSq = s.hp.adminSq := rfl
@[simp] theorem State.place_hp_adminCq (s : State) (b : BusTxn) : (s.place b).hp.adminCq = s.hp.adminCq := rfl
@[simp] theorem State.place_hp_latched (s : State) (b : BusTxn) : (s.place b).hp.latched = s.hp.latched := rfl
@[simp] theorem State.place_hp_timeLatch (s : State) (b : BusTxn) : (s.place b).hp.timeLatch = s.hp.timeLatch := rfl
@[simp] theorem State.place_hp_busMaster (s : State) (b : BusTxn) : (s.place b).hp.busMaster = s.hp.busMaster := rfl
@[simp] theorem State.place_hp_posted (s : State) (b : BusTxn) : (s.place b).hp.posted = s.hp.posted := rfl
@[simp] theorem State.place_hp_credits (s : State) (b : BusTxn) : (s.place b).hp.credits = s.hp.credits := rfl
@[simp] theorem State.place_hp_stale (s : State) (b : BusTxn) : (s.place b).hp.stale = s.hp.stale := rfl
@[simp] theorem State.place_hp_answer (s : State) (b : BusTxn) : (s.place b).hp.answer = s.hp.answer := rfl

/-! ## placePosted -/

@[simp] theorem State.placePosted_pending (s : State) (b : BusTxn) : (s.placePosted b).pending = s.pending := rfl
@[simp] theorem State.placePosted_rqe (s : State) (b : BusTxn) : (s.placePosted b).rqe = s.rqe := rfl
@[simp] theorem State.placePosted_ast (s : State) (b : BusTxn) : (s.placePosted b).ast = s.ast := rfl
@[simp] theorem State.placePosted_dsp (s : State) (b : BusTxn) : (s.placePosted b).dsp = s.dsp := rfl
@[simp] theorem State.placePosted_wtb (s : State) (b : BusTxn) : (s.placePosted b).wtb = s.wtb := rfl
@[simp] theorem State.placePosted_lnu (s : State) (b : BusTxn) : (s.placePosted b).lnu = s.lnu := rfl
@[simp] theorem State.placePosted_tb (s : State) (b : BusTxn) : (s.placePosted b).tb = s.tb := rfl
@[simp] theorem State.placePosted_cu (s : State) (b : BusTxn) : (s.placePosted b).cu = s.cu := rfl
@[simp] theorem State.placePosted_hp_condition (s : State) (b : BusTxn) : (s.placePosted b).hp.condition = s.hp.condition := rfl
@[simp] theorem State.placePosted_hp_enable (s : State) (b : BusTxn) : (s.placePosted b).hp.enable = s.hp.enable := rfl
@[simp] theorem State.placePosted_hp_fatalBit (s : State) (b : BusTxn) : (s.placePosted b).hp.fatalBit = s.hp.fatalBit := rfl
@[simp] theorem State.placePosted_hp_configError (s : State) (b : BusTxn) : (s.placePosted b).hp.configError = s.hp.configError := rfl
@[simp] theorem State.placePosted_hp_adminSq (s : State) (b : BusTxn) : (s.placePosted b).hp.adminSq = s.hp.adminSq := rfl
@[simp] theorem State.placePosted_hp_adminCq (s : State) (b : BusTxn) : (s.placePosted b).hp.adminCq = s.hp.adminCq := rfl
@[simp] theorem State.placePosted_hp_latched (s : State) (b : BusTxn) : (s.placePosted b).hp.latched = s.hp.latched := rfl
@[simp] theorem State.placePosted_hp_timeLatch (s : State) (b : BusTxn) : (s.placePosted b).hp.timeLatch = s.hp.timeLatch := rfl
@[simp] theorem State.placePosted_hp_busMaster (s : State) (b : BusTxn) : (s.placePosted b).hp.busMaster = s.hp.busMaster := rfl
@[simp] theorem State.placePosted_hp_posted (s : State) (b : BusTxn) : (s.placePosted b).hp.posted = s.hp.posted := rfl
@[simp] theorem State.placePosted_hp_stale (s : State) (b : BusTxn) : (s.placePosted b).hp.stale = s.hp.stale := rfl
@[simp] theorem State.placePosted_hp_answer (s : State) (b : BusTxn) : (s.placePosted b).hp.answer = s.hp.answer := rfl

/-! ## queuePosted -/

@[simp] theorem State.queuePosted_pending (s : State) (p : Posted) : (s.queuePosted p).pending = s.pending := rfl
@[simp] theorem State.queuePosted_rqe (s : State) (p : Posted) : (s.queuePosted p).rqe = s.rqe := rfl
@[simp] theorem State.queuePosted_ast (s : State) (p : Posted) : (s.queuePosted p).ast = s.ast := rfl
@[simp] theorem State.queuePosted_dsp (s : State) (p : Posted) : (s.queuePosted p).dsp = s.dsp := rfl
@[simp] theorem State.queuePosted_wtb (s : State) (p : Posted) : (s.queuePosted p).wtb = s.wtb := rfl
@[simp] theorem State.queuePosted_lnu (s : State) (p : Posted) : (s.queuePosted p).lnu = s.lnu := rfl
@[simp] theorem State.queuePosted_tb (s : State) (p : Posted) : (s.queuePosted p).tb = s.tb := rfl
@[simp] theorem State.queuePosted_cu (s : State) (p : Posted) : (s.queuePosted p).cu = s.cu := rfl
@[simp] theorem State.queuePosted_hp_condition (s : State) (p : Posted) : (s.queuePosted p).hp.condition = s.hp.condition := rfl
@[simp] theorem State.queuePosted_hp_enable (s : State) (p : Posted) : (s.queuePosted p).hp.enable = s.hp.enable := rfl
@[simp] theorem State.queuePosted_hp_fatalBit (s : State) (p : Posted) : (s.queuePosted p).hp.fatalBit = s.hp.fatalBit := rfl
@[simp] theorem State.queuePosted_hp_configError (s : State) (p : Posted) : (s.queuePosted p).hp.configError = s.hp.configError := rfl
@[simp] theorem State.queuePosted_hp_adminSq (s : State) (p : Posted) : (s.queuePosted p).hp.adminSq = s.hp.adminSq := rfl
@[simp] theorem State.queuePosted_hp_adminCq (s : State) (p : Posted) : (s.queuePosted p).hp.adminCq = s.hp.adminCq := rfl
@[simp] theorem State.queuePosted_hp_latched (s : State) (p : Posted) : (s.queuePosted p).hp.latched = s.hp.latched := rfl
@[simp] theorem State.queuePosted_hp_timeLatch (s : State) (p : Posted) : (s.queuePosted p).hp.timeLatch = s.hp.timeLatch := rfl
@[simp] theorem State.queuePosted_hp_busMaster (s : State) (p : Posted) : (s.queuePosted p).hp.busMaster = s.hp.busMaster := rfl
@[simp] theorem State.queuePosted_hp_credits (s : State) (p : Posted) : (s.queuePosted p).hp.credits = s.hp.credits := rfl
@[simp] theorem State.queuePosted_hp_bus (s : State) (p : Posted) : (s.queuePosted p).hp.bus = s.hp.bus := rfl
@[simp] theorem State.queuePosted_hp_stale (s : State) (p : Posted) : (s.queuePosted p).hp.stale = s.hp.stale := rfl
@[simp] theorem State.queuePosted_hp_answer (s : State) (p : Posted) : (s.queuePosted p).hp.answer = s.hp.answer := rfl

/-! ## noteStale -/

@[simp] theorem State.noteStale_pending (s : State) (r : ReadSource) : (s.noteStale r).pending = s.pending := rfl
@[simp] theorem State.noteStale_rqe (s : State) (r : ReadSource) : (s.noteStale r).rqe = s.rqe := rfl
@[simp] theorem State.noteStale_ast (s : State) (r : ReadSource) : (s.noteStale r).ast = s.ast := rfl
@[simp] theorem State.noteStale_dsp (s : State) (r : ReadSource) : (s.noteStale r).dsp = s.dsp := rfl
@[simp] theorem State.noteStale_wtb (s : State) (r : ReadSource) : (s.noteStale r).wtb = s.wtb := rfl
@[simp] theorem State.noteStale_lnu (s : State) (r : ReadSource) : (s.noteStale r).lnu = s.lnu := rfl
@[simp] theorem State.noteStale_tb (s : State) (r : ReadSource) : (s.noteStale r).tb = s.tb := rfl
@[simp] theorem State.noteStale_cu (s : State) (r : ReadSource) : (s.noteStale r).cu = s.cu := rfl
@[simp] theorem State.noteStale_hp_condition (s : State) (r : ReadSource) : (s.noteStale r).hp.condition = s.hp.condition := rfl
@[simp] theorem State.noteStale_hp_enable (s : State) (r : ReadSource) : (s.noteStale r).hp.enable = s.hp.enable := rfl
@[simp] theorem State.noteStale_hp_fatalBit (s : State) (r : ReadSource) : (s.noteStale r).hp.fatalBit = s.hp.fatalBit := rfl
@[simp] theorem State.noteStale_hp_configError (s : State) (r : ReadSource) : (s.noteStale r).hp.configError = s.hp.configError := rfl
@[simp] theorem State.noteStale_hp_adminSq (s : State) (r : ReadSource) : (s.noteStale r).hp.adminSq = s.hp.adminSq := rfl
@[simp] theorem State.noteStale_hp_adminCq (s : State) (r : ReadSource) : (s.noteStale r).hp.adminCq = s.hp.adminCq := rfl
@[simp] theorem State.noteStale_hp_latched (s : State) (r : ReadSource) : (s.noteStale r).hp.latched = s.hp.latched := rfl
@[simp] theorem State.noteStale_hp_timeLatch (s : State) (r : ReadSource) : (s.noteStale r).hp.timeLatch = s.hp.timeLatch := rfl
@[simp] theorem State.noteStale_hp_busMaster (s : State) (r : ReadSource) : (s.noteStale r).hp.busMaster = s.hp.busMaster := rfl
@[simp] theorem State.noteStale_hp_posted (s : State) (r : ReadSource) : (s.noteStale r).hp.posted = s.hp.posted := rfl
@[simp] theorem State.noteStale_hp_credits (s : State) (r : ReadSource) : (s.noteStale r).hp.credits = s.hp.credits := rfl
@[simp] theorem State.noteStale_hp_bus (s : State) (r : ReadSource) : (s.noteStale r).hp.bus = s.hp.bus := rfl
@[simp] theorem State.noteStale_hp_answer (s : State) (r : ReadSource) : (s.noteStale r).hp.answer = s.hp.answer := rfl

/-! ## unplace -/

@[simp] theorem State.unplace_pending (s : State) (gone : Nat → Bool) : (s.unplace gone).pending = s.pending := rfl
@[simp] theorem State.unplace_hp (s : State) (gone : Nat → Bool) : (s.unplace gone).hp = s.hp := rfl
@[simp] theorem State.unplace_rqe (s : State) (gone : Nat → Bool) : (s.unplace gone).rqe = s.rqe := rfl
@[simp] theorem State.unplace_ast (s : State) (gone : Nat → Bool) : (s.unplace gone).ast = s.ast := rfl
@[simp] theorem State.unplace_wtb (s : State) (gone : Nat → Bool) : (s.unplace gone).wtb = s.wtb := rfl
@[simp] theorem State.unplace_tb (s : State) (gone : Nat → Bool) : (s.unplace gone).tb = s.tb := rfl
@[simp] theorem State.unplace_cu (s : State) (gone : Nat → Bool) : (s.unplace gone).cu = s.cu := rfl
@[simp] theorem State.unplace_dsp_engines (s : State) (gone : Nat → Bool) : (s.unplace gone).dsp.engines = s.dsp.engines := rfl
@[simp] theorem State.unplace_dsp_lead (s : State) (gone : Nat → Bool) : (s.unplace gone).dsp.lead = s.dsp.lead := rfl
@[simp] theorem State.unplace_dsp_budget (s : State) (gone : Nat → Bool) : (s.unplace gone).dsp.budget = s.dsp.budget := rfl
@[simp] theorem State.unplace_dsp_hold (s : State) (gone : Nat → Bool) : (s.unplace gone).dsp.hold = s.dsp.hold := rfl
@[simp] theorem State.unplace_dsp_steps (s : State) (gone : Nat → Bool) : (s.unplace gone).dsp.steps = s.dsp.steps := rfl
@[simp] theorem State.unplace_lnu_inputs (s : State) (gone : Nat → Bool) : (s.unplace gone).lnu.inputs = s.lnu.inputs := rfl
@[simp] theorem State.unplace_lnu_outputs (s : State) (gone : Nat → Bool) : (s.unplace gone).lnu.outputs = s.lnu.outputs := rfl
@[simp] theorem State.unplace_lnu_steps (s : State) (gone : Nat → Bool) : (s.unplace gone).lnu.steps = s.lnu.steps := rfl

/-! ## enterSchedule -/

@[simp] theorem State.enterSchedule_pending (s : State) (n : Nat) (x : Slot) (due : Nat) : (s.enterSchedule n x due).pending = s.pending := rfl
@[simp] theorem State.enterSchedule_hp (s : State) (n : Nat) (x : Slot) (due : Nat) : (s.enterSchedule n x due).hp = s.hp := rfl
@[simp] theorem State.enterSchedule_rqe (s : State) (n : Nat) (x : Slot) (due : Nat) : (s.enterSchedule n x due).rqe = s.rqe := rfl
@[simp] theorem State.enterSchedule_wtb (s : State) (n : Nat) (x : Slot) (due : Nat) : (s.enterSchedule n x due).wtb = s.wtb := rfl
@[simp] theorem State.enterSchedule_lnu (s : State) (n : Nat) (x : Slot) (due : Nat) : (s.enterSchedule n x due).lnu = s.lnu := rfl
@[simp] theorem State.enterSchedule_tb (s : State) (n : Nat) (x : Slot) (due : Nat) : (s.enterSchedule n x due).tb = s.tb := rfl
@[simp] theorem State.enterSchedule_cu (s : State) (n : Nat) (x : Slot) (due : Nat) : (s.enterSchedule n x due).cu = s.cu := rfl
@[simp] theorem State.enterSchedule_ast_quotas (s : State) (n : Nat) (x : Slot) (due : Nat) : (s.enterSchedule n x due).ast.quotas = s.ast.quotas := rfl
@[simp] theorem State.enterSchedule_dsp_engines (s : State) (n : Nat) (x : Slot) (due : Nat) : (s.enterSchedule n x due).dsp.engines = s.dsp.engines := rfl
@[simp] theorem State.enterSchedule_dsp_lead (s : State) (n : Nat) (x : Slot) (due : Nat) : (s.enterSchedule n x due).dsp.lead = s.dsp.lead := rfl
@[simp] theorem State.enterSchedule_dsp_budget (s : State) (n : Nat) (x : Slot) (due : Nat) : (s.enterSchedule n x due).dsp.budget = s.dsp.budget := rfl
@[simp] theorem State.enterSchedule_dsp_hold (s : State) (n : Nat) (x : Slot) (due : Nat) : (s.enterSchedule n x due).dsp.hold = s.dsp.hold := rfl
@[simp] theorem State.enterSchedule_dsp_steps (s : State) (n : Nat) (x : Slot) (due : Nat) : (s.enterSchedule n x due).dsp.steps = s.dsp.steps := rfl

/-! ## enterCalendar -/

@[simp] theorem State.enterCalendar_pending (s : State) (n : Nat) (x : Slot) (st : SlotState) (key : Nat) : (s.enterCalendar n x st key).pending = s.pending := rfl
@[simp] theorem State.enterCalendar_hp (s : State) (n : Nat) (x : Slot) (st : SlotState) (key : Nat) : (s.enterCalendar n x st key).hp = s.hp := rfl
@[simp] theorem State.enterCalendar_rqe (s : State) (n : Nat) (x : Slot) (st : SlotState) (key : Nat) : (s.enterCalendar n x st key).rqe = s.rqe := rfl
@[simp] theorem State.enterCalendar_dsp (s : State) (n : Nat) (x : Slot) (st : SlotState) (key : Nat) : (s.enterCalendar n x st key).dsp = s.dsp := rfl
@[simp] theorem State.enterCalendar_wtb (s : State) (n : Nat) (x : Slot) (st : SlotState) (key : Nat) : (s.enterCalendar n x st key).wtb = s.wtb := rfl
@[simp] theorem State.enterCalendar_tb (s : State) (n : Nat) (x : Slot) (st : SlotState) (key : Nat) : (s.enterCalendar n x st key).tb = s.tb := rfl
@[simp] theorem State.enterCalendar_cu (s : State) (n : Nat) (x : Slot) (st : SlotState) (key : Nat) : (s.enterCalendar n x st key).cu = s.cu := rfl
@[simp] theorem State.enterCalendar_ast_quotas (s : State) (n : Nat) (x : Slot) (st : SlotState) (key : Nat) : (s.enterCalendar n x st key).ast.quotas = s.ast.quotas := rfl
@[simp] theorem State.enterCalendar_lnu_inputs (s : State) (n : Nat) (x : Slot) (st : SlotState) (key : Nat) : (s.enterCalendar n x st key).lnu.inputs = s.lnu.inputs := rfl
@[simp] theorem State.enterCalendar_lnu_listen (s : State) (n : Nat) (x : Slot) (st : SlotState) (key : Nat) : (s.enterCalendar n x st key).lnu.listen = s.lnu.listen := rfl
@[simp] theorem State.enterCalendar_lnu_outputs (s : State) (n : Nat) (x : Slot) (st : SlotState) (key : Nat) : (s.enterCalendar n x st key).lnu.outputs = s.lnu.outputs := rfl
@[simp] theorem State.enterCalendar_lnu_steps (s : State) (n : Nat) (x : Slot) (st : SlotState) (key : Nat) : (s.enterCalendar n x st key).lnu.steps = s.lnu.steps := rfl

/-! ## freeSlot -/

@[simp] theorem State.freeSlot_pending (s : State) (n : Nat) : (s.freeSlot n).pending = s.pending := rfl
@[simp] theorem State.freeSlot_hp (s : State) (n : Nat) : (s.freeSlot n).hp = s.hp := rfl
@[simp] theorem State.freeSlot_rqe (s : State) (n : Nat) : (s.freeSlot n).rqe = s.rqe := rfl
@[simp] theorem State.freeSlot_wtb (s : State) (n : Nat) : (s.freeSlot n).wtb = s.wtb := rfl
@[simp] theorem State.freeSlot_tb (s : State) (n : Nat) : (s.freeSlot n).tb = s.tb := rfl
@[simp] theorem State.freeSlot_cu (s : State) (n : Nat) : (s.freeSlot n).cu = s.cu := rfl
@[simp] theorem State.freeSlot_ast_quotas (s : State) (n : Nat) : (s.freeSlot n).ast.quotas = s.ast.quotas := rfl
@[simp] theorem State.freeSlot_ast_seq (s : State) (n : Nat) : (s.freeSlot n).ast.seq = s.ast.seq := rfl
@[simp] theorem State.freeSlot_dsp_engines (s : State) (n : Nat) : (s.freeSlot n).dsp.engines = s.dsp.engines := rfl
@[simp] theorem State.freeSlot_dsp_lead (s : State) (n : Nat) : (s.freeSlot n).dsp.lead = s.dsp.lead := rfl
@[simp] theorem State.freeSlot_dsp_budget (s : State) (n : Nat) : (s.freeSlot n).dsp.budget = s.dsp.budget := rfl
@[simp] theorem State.freeSlot_dsp_hold (s : State) (n : Nat) : (s.freeSlot n).dsp.hold = s.dsp.hold := rfl
@[simp] theorem State.freeSlot_dsp_steps (s : State) (n : Nat) : (s.freeSlot n).dsp.steps = s.dsp.steps := rfl
@[simp] theorem State.freeSlot_lnu_inputs (s : State) (n : Nat) : (s.freeSlot n).lnu.inputs = s.lnu.inputs := rfl
@[simp] theorem State.freeSlot_lnu_outputs (s : State) (n : Nat) : (s.freeSlot n).lnu.outputs = s.lnu.outputs := rfl
@[simp] theorem State.freeSlot_lnu_steps (s : State) (n : Nat) : (s.freeSlot n).lnu.steps = s.lnu.steps := rfl

/-! ## What the accessors read back -/

@[simp] theorem State.sq_setSq_self (s : State) (r : Fin 16) (x : SqContext) : (s.setSq r x).sq r = x := by
  simp [State.sq, State.setSq]

theorem State.sq_setSq_of_ne (s : State) {r k : Fin 16} (x : SqContext) (h : k ≠ r) : (s.setSq r x).sq k = s.sq k := by
  simp [State.sq, State.setSq, Fin.val_inj, Ne.symm h]

@[simp] theorem State.ctx_setSq (s : State) (r : Fin 16) (x : SqContext) (c : Fin 8) : (s.setSq r x).ctx c = s.ctx c := rfl
@[simp] theorem State.cq_setSq (s : State) (r : Fin 16) (x : SqContext) (q : Fin 16) : (s.setSq r x).cq q = s.cq q := rfl
@[simp] theorem State.engine_setSq (s : State) (r : Fin 16) (x : SqContext) (e : Fin 4) : (s.setSq r x).engine e = s.engine e := rfl
@[simp] theorem State.input_setSq (s : State) (r : Fin 16) (x : SqContext) (l : Fin 4) : (s.setSq r x).input l = s.input l := rfl
@[simp] theorem State.output_setSq (s : State) (r : Fin 16) (x : SqContext) (l : Fin 4) : (s.setSq r x).output l = s.output l := rfl

@[simp] theorem State.ctx_setCtx_self (s : State) (c : Fin 8) (x : ReqContext) : (s.setCtx c x).ctx c = x := by
  simp [State.ctx, State.setCtx]

theorem State.ctx_setCtx_of_ne (s : State) {c k : Fin 8} (x : ReqContext) (h : k ≠ c) : (s.setCtx c x).ctx k = s.ctx k := by
  simp [State.ctx, State.setCtx, Fin.val_inj, Ne.symm h]

@[simp] theorem State.sq_setCtx (s : State) (c : Fin 8) (x : ReqContext) (r : Fin 16) : (s.setCtx c x).sq r = s.sq r := rfl
@[simp] theorem State.cq_setCtx (s : State) (c : Fin 8) (x : ReqContext) (q : Fin 16) : (s.setCtx c x).cq q = s.cq q := rfl
@[simp] theorem State.engine_setCtx (s : State) (c : Fin 8) (x : ReqContext) (e : Fin 4) : (s.setCtx c x).engine e = s.engine e := rfl
@[simp] theorem State.input_setCtx (s : State) (c : Fin 8) (x : ReqContext) (l : Fin 4) : (s.setCtx c x).input l = s.input l := rfl
@[simp] theorem State.output_setCtx (s : State) (c : Fin 8) (x : ReqContext) (l : Fin 4) : (s.setCtx c x).output l = s.output l := rfl

@[simp] theorem State.cq_setCq_self (s : State) (q : Fin 16) (x : CqContext) : (s.setCq q x).cq q = x := by
  simp [State.cq, State.setCq]

theorem State.cq_setCq_of_ne (s : State) {q k : Fin 16} (x : CqContext) (h : k ≠ q) : (s.setCq q x).cq k = s.cq k := by
  simp [State.cq, State.setCq, Fin.val_inj, Ne.symm h]

@[simp] theorem State.sq_setCq (s : State) (q : Fin 16) (x : CqContext) (r : Fin 16) : (s.setCq q x).sq r = s.sq r := rfl
@[simp] theorem State.ctx_setCq (s : State) (q : Fin 16) (x : CqContext) (c : Fin 8) : (s.setCq q x).ctx c = s.ctx c := rfl
@[simp] theorem State.engine_setCq (s : State) (q : Fin 16) (x : CqContext) (e : Fin 4) : (s.setCq q x).engine e = s.engine e := rfl
@[simp] theorem State.input_setCq (s : State) (q : Fin 16) (x : CqContext) (l : Fin 4) : (s.setCq q x).input l = s.input l := rfl
@[simp] theorem State.output_setCq (s : State) (q : Fin 16) (x : CqContext) (l : Fin 4) : (s.setCq q x).output l = s.output l := rfl

@[simp] theorem State.engine_setEngine_self (s : State) (e : Fin 4) (x : Engine) : (s.setEngine e x).engine e = x := by
  simp [State.engine, State.setEngine]

theorem State.engine_setEngine_of_ne (s : State) {e k : Fin 4} (x : Engine) (h : k ≠ e) : (s.setEngine e x).engine k = s.engine k := by
  simp [State.engine, State.setEngine, Fin.val_inj, Ne.symm h]

@[simp] theorem State.sq_setEngine (s : State) (e : Fin 4) (x : Engine) (r : Fin 16) : (s.setEngine e x).sq r = s.sq r := rfl
@[simp] theorem State.ctx_setEngine (s : State) (e : Fin 4) (x : Engine) (c : Fin 8) : (s.setEngine e x).ctx c = s.ctx c := rfl
@[simp] theorem State.cq_setEngine (s : State) (e : Fin 4) (x : Engine) (q : Fin 16) : (s.setEngine e x).cq q = s.cq q := rfl
@[simp] theorem State.input_setEngine (s : State) (e : Fin 4) (x : Engine) (l : Fin 4) : (s.setEngine e x).input l = s.input l := rfl
@[simp] theorem State.output_setEngine (s : State) (e : Fin 4) (x : Engine) (l : Fin 4) : (s.setEngine e x).output l = s.output l := rfl

@[simp] theorem State.input_setInput_self (s : State) (l : Fin 4) (x : InputLine) : (s.setInput l x).input l = x := by
  simp [State.input, State.setInput]

theorem State.input_setInput_of_ne (s : State) {l k : Fin 4} (x : InputLine) (h : k ≠ l) : (s.setInput l x).input k = s.input k := by
  simp [State.input, State.setInput, Fin.val_inj, Ne.symm h]

@[simp] theorem State.sq_setInput (s : State) (l : Fin 4) (x : InputLine) (r : Fin 16) : (s.setInput l x).sq r = s.sq r := rfl
@[simp] theorem State.ctx_setInput (s : State) (l : Fin 4) (x : InputLine) (c : Fin 8) : (s.setInput l x).ctx c = s.ctx c := rfl
@[simp] theorem State.cq_setInput (s : State) (l : Fin 4) (x : InputLine) (q : Fin 16) : (s.setInput l x).cq q = s.cq q := rfl
@[simp] theorem State.engine_setInput (s : State) (l : Fin 4) (x : InputLine) (e : Fin 4) : (s.setInput l x).engine e = s.engine e := rfl
@[simp] theorem State.output_setInput (s : State) (l : Fin 4) (x : InputLine) (l' : Fin 4) : (s.setInput l x).output l' = s.output l' := rfl

@[simp] theorem State.output_setOutput_self (s : State) (l : Fin 4) (x : OutputLine) : (s.setOutput l x).output l = x := by
  simp [State.output, State.setOutput]

theorem State.output_setOutput_of_ne (s : State) {l k : Fin 4} (x : OutputLine) (h : k ≠ l) : (s.setOutput l x).output k = s.output k := by
  simp [State.output, State.setOutput, Fin.val_inj, Ne.symm h]

@[simp] theorem State.sq_setOutput (s : State) (l : Fin 4) (x : OutputLine) (r : Fin 16) : (s.setOutput l x).sq r = s.sq r := rfl
@[simp] theorem State.ctx_setOutput (s : State) (l : Fin 4) (x : OutputLine) (c : Fin 8) : (s.setOutput l x).ctx c = s.ctx c := rfl
@[simp] theorem State.cq_setOutput (s : State) (l : Fin 4) (x : OutputLine) (q : Fin 16) : (s.setOutput l x).cq q = s.cq q := rfl
@[simp] theorem State.engine_setOutput (s : State) (l : Fin 4) (x : OutputLine) (e : Fin 4) : (s.setOutput l x).engine e = s.engine e := rfl
@[simp] theorem State.input_setOutput (s : State) (l : Fin 4) (x : OutputLine) (l' : Fin 4) : (s.setOutput l x).input l' = s.input l' := rfl

end Sys2Proof.Machine
end

