-- ==== Sys2Proof/Laws/Frames.lean ====
section
/-! SUPPORT. What each shared operation leaves alone, said once per operation through three relations between the state
before and the state after. -/

namespace Sys2Proof.Machine

open Sys2Proof

/-! ## HP apart from its posted writes -/

/-- Nothing of HP differs but the posted writes that wait, the credits and the log of the link. -/
def HostPort.sameBut (a b : HostPort) : Prop := { b with posted := a.posted, credits := a.credits, bus := a.bus } = a

theorem HostPort.sameBut_refl (a : HostPort) : a.sameBut a := rfl

theorem HostPort.sameBut_trans {a b c : HostPort} (h : a.sameBut b) (k : b.sameBut c) : a.sameBut c := by
  cases a; cases b; cases c
  simp only [HostPort.sameBut, HostPort.mk.injEq, true_and] at *
  simp_all

theorem HostPort.sameBut_condition {a b : HostPort} (h : a.sameBut b) : b.condition = a.condition := by
  have k : { b with posted := a.posted, credits := a.credits, bus := a.bus } = a := h
  have m := congrArg HostPort.condition k
  exact m

theorem HostPort.sameBut_busMaster {a b : HostPort} (h : a.sameBut b) : b.busMaster = a.busMaster := by
  have k : { b with posted := a.posted, credits := a.credits, bus := a.bus } = a := h
  have m := congrArg HostPort.busMaster k
  exact m

/-! ## The three frames -/

/-- Only the completion rings and HP's posted writes differ. -/
structure CompletionFrame (s t : State) : Prop where
  pending : t.pending = s.pending
  rqe : t.rqe = s.rqe
  ast : t.ast = s.ast
  dsp : t.dsp = s.dsp
  wtb : t.wtb = s.wtb
  lnu : t.lnu = s.lnu
  tb : t.tb = s.tb
  hp : s.hp.sameBut t.hp

/-- Only the completion rings, the request engine and HP's posted writes differ. -/
structure RequestFrame (s t : State) : Prop where
  pending : t.pending = s.pending
  ast : t.ast = s.ast
  dsp : t.dsp = s.dsp
  wtb : t.wtb = s.wtb
  lnu : t.lnu = s.lnu
  tb : t.tb = s.tb
  hp : s.hp.sameBut t.hp

/-- The clock, the windows, the quotas, the dispatch parameters, the input and output lines and the step events that wait
stay as they are, and so does HP but for its posted writes. -/
structure ActionFrame (s t : State) : Prop where
  pending : t.pending = s.pending
  wtb : t.wtb = s.wtb
  tb : t.tb = s.tb
  quotas : t.ast.quotas = s.ast.quotas
  lead : t.dsp.lead = s.dsp.lead
  budget : t.dsp.budget = s.dsp.budget
  hold : t.dsp.hold = s.dsp.hold
  dspSteps : t.dsp.steps = s.dsp.steps
  inputs : t.lnu.inputs = s.lnu.inputs
  outputs : t.lnu.outputs = s.lnu.outputs
  lnuSteps : t.lnu.steps = s.lnu.steps
  hp : s.hp.sameBut t.hp

theorem CompletionFrame.refl (s : State) : CompletionFrame s s := ⟨rfl, rfl, rfl, rfl, rfl, rfl, rfl, rfl⟩

theorem CompletionFrame.trans {s t u : State} (h : CompletionFrame s t) (k : CompletionFrame t u) :
    CompletionFrame s u :=
  ⟨k.1.trans h.1, k.2.trans h.2, k.3.trans h.3, k.4.trans h.4, k.5.trans h.5, k.6.trans h.6, k.7.trans h.7,
    HostPort.sameBut_trans h.8 k.8⟩

theorem CompletionFrame.toRequest {s t : State} (h : CompletionFrame s t) : RequestFrame s t :=
  ⟨h.pending, h.ast, h.dsp, h.wtb, h.lnu, h.tb, h.hp⟩

theorem RequestFrame.refl (s : State) : RequestFrame s s := ⟨rfl, rfl, rfl, rfl, rfl, rfl, rfl⟩

theorem RequestFrame.trans {s t u : State} (h : RequestFrame s t) (k : RequestFrame t u) : RequestFrame s u :=
  ⟨k.1.trans h.1, k.2.trans h.2, k.3.trans h.3, k.4.trans h.4, k.5.trans h.5, k.6.trans h.6,
    HostPort.sameBut_trans h.7 k.7⟩

theorem RequestFrame.toAction {s t : State} (h : RequestFrame s t) : ActionFrame s t := by
  obtain ⟨hp, ha, hd, hw, hl, ht, hh⟩ := h
  constructor <;> simp only [hp, ha, hd, hw, hl, ht, hh]

theorem ActionFrame.refl (s : State) : ActionFrame s s :=
  ⟨rfl, rfl, rfl, rfl, rfl, rfl, rfl, rfl, rfl, rfl, rfl, rfl⟩

theorem ActionFrame.trans {s t u : State} (h : ActionFrame s t) (k : ActionFrame t u) : ActionFrame s u :=
  ⟨k.1.trans h.1, k.2.trans h.2, k.3.trans h.3, k.4.trans h.4, k.5.trans h.5, k.6.trans h.6, k.7.trans h.7,
    k.8.trans h.8, k.9.trans h.9, k.10.trans h.10, k.11.trans h.11, HostPort.sameBut_trans h.12 k.12⟩

/-! ## Completion operations -/

theorem frame_setCq (s : State) (q : Fin 16) (x : CqContext) : CompletionFrame s (s.setCq q x) :=
  ⟨rfl, rfl, rfl, rfl, rfl, rfl, rfl, rfl⟩

theorem frame_placePosted (s : State) (b : BusTxn) : CompletionFrame s (s.placePosted b) :=
  ⟨rfl, rfl, rfl, rfl, rfl, rfl, rfl, rfl⟩

theorem frame_queuePosted (s : State) (p : Posted) : CompletionFrame s (s.queuePosted p) :=
  ⟨rfl, rfl, rfl, rfl, rfl, rfl, rfl, rfl⟩

theorem frame_place (s : State) (b : BusTxn) : CompletionFrame s (s.place b) :=
  ⟨rfl, rfl, rfl, rfl, rfl, rfl, rfl, rfl⟩

theorem frame_placeIfMaster (s : State) (b : BusTxn) : CompletionFrame s (s.placeIfMaster b) := by
  unfold State.placeIfMaster
  split
  · exact frame_place s b
  · exact .refl s

theorem frame_handCuWrite (s : State) (w : CuWrite) : CompletionFrame s (s.handCuWrite w) := by
  refine ⟨rfl, rfl, rfl, rfl, rfl, rfl, rfl, ?_⟩
  show s.hp.sameBut (s.hp.takeCuWrite w)
  unfold HostPort.takeCuWrite
  split
  · split <;> rfl
  · rfl

theorem frame_notifyIfDue (s : State) (q : Fin 16) : CompletionFrame s (s.notifyIfDue q) := by
  unfold State.notifyIfDue
  split
  · exact (frame_setCq s q _).trans (frame_handCuWrite _ _)
  · exact .refl s

theorem frame_writeEntry (s : State) (q : Fin 16) (c : Completion) : CompletionFrame s (s.writeEntry q c) :=
  ((frame_setCq s q _).trans (frame_handCuWrite _ _)).trans (frame_notifyIfDue _ q)

theorem frame_loseCompletion (s : State) (q : Fin 16) : CompletionFrame s (s.loseCompletion q) := frame_setCq s q _

theorem frame_postCompletion (s : State) (q : Fin 16) (c : Completion) : CompletionFrame s (s.postCompletion q c) := by
  unfold State.postCompletion
  split
  · exact .refl s
  · split
    · exact .refl s
    · exact frame_loseCompletion s q
    · split
      · exact frame_writeEntry s q c
      · split
        · exact frame_setCq s q _
        · exact frame_loseCompletion s q

theorem frame_drainUpTo (q : Fin 16) : ∀ (n : Nat) (s : State), CompletionFrame s (State.drainUpTo q n s)
  | 0, s => .refl s
  | n + 1, s => by
    unfold State.drainUpTo
    split
    · exact .refl s
    · split
      · exact ((frame_setCq s q _).trans (frame_writeEntry _ q _)).trans (frame_drainUpTo q n _)
      · exact .refl s

theorem frame_drain (s : State) (q : Fin 16) : CompletionFrame s (s.drain q) := by
  unfold State.drain
  split
  · exact frame_drainUpTo q _ s
  · exact .refl s

theorem frame_releaseReservation (s : State) (q : Fin 16) : CompletionFrame s (s.releaseReservation q) :=
  (frame_setCq s q _).trans (frame_drain _ q)

theorem frame_writeRequestCompletion (s : State) (q : Fin 16) (c : Completion) :
    CompletionFrame s (s.writeRequestCompletion q c) := by
  unfold State.writeRequestCompletion
  split
  · exact frame_setCq s q _
  · exact (frame_setCq s q _).trans (frame_loseCompletion _ q)
  · exact (frame_setCq s q _).trans (frame_writeEntry _ q c)

theorem frame_postNotice (s : State) (code : Status) (a b d : Nat) (v : Word64) :
    CompletionFrame s (s.postNotice code a b d v) := frame_postCompletion s 0 _

theorem frame_applyRelease (s : State) (q : Fin 16) (i : Nat) : CompletionFrame s (s.applyRelease q i) := by
  unfold State.applyRelease
  split
  · exact ((frame_setCq s q _).trans (frame_notifyIfDue _ q)).trans (frame_drain _ q)
  · exact frame_setCq s q _

theorem frame_writeRelease (s : State) (d : Word64) : CompletionFrame s (s.writeRelease d) := by
  unfold State.writeRelease
  split
  · split
    · exact frame_applyRelease s _ _
    · exact frame_postNotice s _ _ _ _ _
  · exact .refl s

/-! ## Request operations -/

theorem frame_setSq (s : State) (r : Fin 16) (x : SqContext) : RequestFrame s (s.setSq r x) :=
  ⟨rfl, rfl, rfl, rfl, rfl, rfl, rfl⟩

theorem frame_setCtx (s : State) (c : Fin 8) (x : ReqContext) : RequestFrame s (s.setCtx c x) :=
  ⟨rfl, rfl, rfl, rfl, rfl, rfl, rfl⟩

theorem frame_retireIfDone (s : State) (r : Fin 16) : RequestFrame s (s.retireIfDone r) := by
  unfold State.retireIfDone
  split
  · exact (frame_setSq s r _).trans (frame_postNotice _ _ _ _ _ _).toRequest
  · exact .refl s

theorem frame_freeContext (s : State) (c : Fin 8) (r : Fin 16) : RequestFrame s (s.freeContext c r) :=
  ⟨rfl, rfl, rfl, rfl, rfl, rfl, rfl⟩

theorem frame_completeRequest (s : State) (c : Fin 8) (r : Fin 16) (x : Result) :
    RequestFrame s (s.completeRequest c r x) :=
  ((frame_writeRequestCompletion s _ _).toRequest.trans (frame_freeContext _ c r)).trans (frame_retireIfDone _ r)

theorem frame_writePost (s : State) (d : Word64) : RequestFrame s (s.writePost d) := by
  unfold State.writePost
  split
  · split
    · exact frame_setSq s _ _
    · exact (frame_postNotice s _ _ _ _ _).toRequest
  · exact .refl s

theorem frame_newRound (s : State) : RequestFrame s s.newRound := ⟨rfl, rfl, rfl, rfl, rfl, rfl, rfl⟩

theorem frame_grant (s : State) (r : Fin 16) (c : Fin 8) : RequestFrame s (s.grant r c) :=
  (((frame_setSq s r _).trans (frame_setCtx _ c _)).trans (frame_setCq _ _ _).toRequest).trans
    (frame_placeIfMaster _ _).toRequest

theorem frame_grantTenant (s : State) (r : Fin 16) (c : Fin 8) : RequestFrame s (s.grantTenant r c) :=
  RequestFrame.trans (t := { s.setSq r { s.sq r with credit := (s.sq r).credit - 1 } with
      rqe := { (s.setSq r { s.sq r with credit := (s.sq r).credit - 1 }).rqe with pointer := nextPointer r } })
    ⟨rfl, rfl, rfl, rfl, rfl, rfl, rfl⟩ (frame_grant _ r c)

theorem frame_arbitrate (s : State) (c : Fin 8) : RequestFrame s (s.arbitrate c) := by
  unfold State.arbitrate
  split
  · exact frame_grant s 0 c
  · split
    · exact frame_grantTenant s _ c
    · split
      · split
        · exact (frame_newRound s).trans (frame_grantTenant _ _ c)
        · exact frame_newRound s
      · exact .refl s

theorem frame_failFetch (s : State) (c : Fin 8) (r : Fin 16) (h : Nat) : RequestFrame s (s.failFetch c r h) :=
  ((((frame_freeContext s c r).trans (frame_releaseReservation _ _).toRequest).trans (frame_setSq _ r _)).trans
    (frame_postNotice _ _ _ _ _ _).toRequest).trans (frame_retireIfDone _ r)

/-! ## Operations on actions and engines -/

theorem frame_setSlot (s : State) (n : Nat) (x : Slot) : ActionFrame s (s.setSlot n x) :=
  ⟨rfl, rfl, rfl, rfl, rfl, rfl, rfl, rfl, rfl, rfl, rfl, rfl⟩

theorem frame_setEngine (s : State) (e : Fin 4) (x : Engine) : ActionFrame s (s.setEngine e x) :=
  ⟨rfl, rfl, rfl, rfl, rfl, rfl, rfl, rfl, rfl, rfl, rfl, rfl⟩

theorem frame_unplace (s : State) (gone : Nat → Bool) : ActionFrame s (s.unplace gone) :=
  ⟨rfl, rfl, rfl, rfl, rfl, rfl, rfl, rfl, rfl, rfl, rfl, rfl⟩

theorem frame_enterSchedule (s : State) (n : Nat) (x : Slot) (due : Nat) : ActionFrame s (s.enterSchedule n x due) :=
  ⟨rfl, rfl, rfl, rfl, rfl, rfl, rfl, rfl, rfl, rfl, rfl, rfl⟩

theorem frame_enterCalendar (s : State) (n : Nat) (x : Slot) (st : SlotState) (key : Nat) :
    ActionFrame s (s.enterCalendar n x st key) :=
  ⟨rfl, rfl, rfl, rfl, rfl, rfl, rfl, rfl, rfl, rfl, rfl, rfl⟩

theorem frame_freeSlot (s : State) (n : Nat) : ActionFrame s (s.freeSlot n) :=
  ⟨rfl, rfl, rfl, rfl, rfl, rfl, rfl, rfl, rfl, rfl, rfl, rfl⟩

theorem frame_endSlot (s : State) (n : Nat) (r : Fin 16) : ActionFrame s (s.endSlot n r) :=
  (frame_freeSlot s n).trans (frame_retireIfDone _ r).toAction

theorem frame_sweepRing (s : State) (r : Fin 16) : ActionFrame s (s.sweepRing r) :=
  ⟨rfl, rfl, rfl, rfl, rfl, rfl, rfl, rfl, rfl, rfl, rfl, rfl⟩

theorem frame_placeAction (s : State) (n : Nat) (x : Slot) : ActionFrame s (s.placeAction n x) := by
  unfold State.placeAction
  split
  · exact frame_enterSchedule s n x _
  · exact frame_enterCalendar s n x _ _

theorem frame_stageHead (s : State) : ActionFrame s s.stageHead := by
  unfold State.stageHead
  split
  · split
    · split
      · split <;> exact ⟨rfl, rfl, rfl, rfl, rfl, rfl, rfl, rfl, rfl, rfl, rfl, rfl⟩
      · exact ⟨rfl, rfl, rfl, rfl, rfl, rfl, rfl, rfl, rfl, rfl, rfl, rfl⟩
    · exact .refl s
  · exact .refl s

theorem frame_stageUpTo : ∀ (n : Nat) (s : State), ActionFrame s (State.stageUpTo n s)
  | 0, s => .refl s
  | n + 1, s => (frame_stageHead s).trans (frame_stageUpTo n _)

theorem frame_stageAll (s : State) : ActionFrame s s.stageAll := frame_stageUpTo _ s

theorem frame_endInstance (s : State) (e : Fin 4) (st : Status) (i : Nat) : ActionFrame s (s.endInstance e st i) := by
  unfold State.endInstance
  split
  · exact frame_setEngine s e _
  · rename_i x _
    have ending (u : State) (b : Bool) (n d : Nat) (r : Fin 16) (y : Slot) :
        ActionFrame u (if b = true then u.endSlot n r else u.enterSchedule n y d) := by
      split
      · exact frame_endSlot u n r
      · exact frame_enterSchedule u n y d
    refine ActionFrame.trans ?_ (frame_stageHead _)
    refine ActionFrame.trans (t := (if (endReport x (s.engine e).due (s.engine e).late st s.now).posted then
      s.postCompletion (s.sq x.ring).cq (fireCompletion x (s.engine e) st i
        (endReport x (s.engine e).due (s.engine e).late st s.now)) else s).setEngine e Engine.released) ?_ ?_
    · refine ActionFrame.trans ?_ (frame_setEngine _ e _)
      split
      · exact (frame_postCompletion s _ _).toRequest.toAction
      · exact .refl s
    · exact ending _ _ _ _ _ _

theorem frame_dropOpWrite (s : State) (e : Fin 4) : CompletionFrame s (s.dropOpWrite e) :=
  ⟨rfl, rfl, rfl, rfl, rfl, rfl, rfl, rfl⟩

theorem frame_afterStop (s : State) (e : Fin 4) : ∀ k : Stop, ActionFrame s (s.afterStop e k)
  | .budget => frame_endInstance s e _ _
  | .teardown => (frame_setEngine s e _).trans (frame_freeSlot _ _)
  | .fatal => frame_setEngine s e _

theorem frame_stopRunning (s : State) (e : Fin 4) (k : Stop) : ActionFrame s (s.stopRunning e k) := by
  unfold State.stopRunning
  split
  · exact frame_setEngine s e _
  · exact frame_setEngine s e _
  · exact (frame_dropOpWrite s e).toRequest.toAction.trans (frame_afterStop _ e k)
  all_goals exact frame_afterStop s e k

theorem frame_fatalEngine (s : State) (e : Fin 4) : ActionFrame s (s.fatalEngine e) := by
  unfold State.fatalEngine
  split
  · exact .refl s
  · exact .refl s
  · exact frame_setEngine s e _
  · exact frame_stopRunning s e _

theorem frame_teardownEngine (s : State) (e : Fin 4) : ActionFrame s (s.teardownEngine e) := by
  unfold State.teardownEngine
  split
  · exact .refl s
  · exact frame_afterStop s e _
  · exact frame_afterStop s e _
  · exact frame_stopRunning s e _

theorem frame_issueOpWrite (s : State) (e : Fin 4) (a : Addr) (w : Width) (d : Word64) :
    CompletionFrame s (s.issueOpWrite e a w d) := by
  unfold State.issueOpWrite
  split
  · exact frame_placePosted s _
  · exact .refl s

theorem frame_setPath (s : State) (e : Fin 4) (i : Nat) (p : OpPath) : ActionFrame s (s.setPath e i p) :=
  frame_setEngine s e _

theorem frame_waitForLink (s : State) (e : Fin 4) (i : Nat) (v : Word64) : ActionFrame s (s.waitForLink e i v) :=
  (frame_setPath s e i _).trans (frame_queuePosted _ _).toRequest.toAction

theorem frame_issueRead (s : State) (e : Fin 4) (i : Nat) (a : Addr) (w : Width) : ActionFrame s (s.issueRead e i a w) :=
  (frame_setPath s e i _).trans (frame_placeIfMaster _ _).toRequest.toAction

theorem frame_runOps (e : Fin 4) (tenant : Nat) : ∀ (ops : List Op) (i : Nat) (s : State),
    ActionFrame s (State.runOps e tenant i ops s)
  | [], i, s => frame_endInstance s e _ _
  | op :: rest, i, s => by
    cases op with
    | write w a d =>
      simp only [State.runOps]
      split
      · split
        · exact (frame_issueOpWrite s e a w d).toRequest.toAction.trans (frame_runOps e tenant rest _ _)
        · exact frame_endInstance s e _ _
      · exact frame_waitForLink s e i _
    | stamp a =>
      simp only [State.runOps]
      split
      · split
        · exact (frame_issueOpWrite s e a _ _).toRequest.toAction.trans (frame_runOps e tenant rest _ _)
        · exact frame_endInstance s e _ _
      · exact frame_waitForLink s e i _
    | read w a =>
      simp only [State.runOps]
      split
      · exact frame_issueRead s e i a w
      · exact frame_endInstance s e _ _
    | maskedWrite w a d m =>
      simp only [State.runOps]
      split
      · exact frame_issueRead s e i a w
      · exact frame_endInstance s e _ _
    | poll w a d m l =>
      simp only [State.runOps]
      split
      · exact frame_issueRead s e i a w
      · exact frame_endInstance s e _ _
    | line l v => exact frame_setPath s e i _
    | wait n => exact frame_setPath s e i _

theorem frame_continueAfter (s : State) (e : Fin 4) (x : Slot) (i : Nat) : ActionFrame s (s.continueAfter e x i) :=
  frame_runOps e _ _ _ s

theorem frame_setCapture (s : State) (n : Nat) (v : Word64) : ActionFrame s (s.setCapture n v) := by
  unfold State.setCapture
  split
  · exact frame_setSlot s n _
  · exact .refl s

theorem frame_stoppedReturn (s : State) (e : Fin 4) (k : Stop) (v : Word64) : ActionFrame s (s.stoppedReturn e k v) := by
  unfold State.stoppedReturn
  cases k
  · exact (frame_setCapture s _ v).trans (frame_afterStop _ e _)
  · exact frame_afterStop s e _
  · exact (frame_setCapture s _ v).trans (frame_afterStop _ e _)

theorem frame_failRead (s : State) (e : Fin 4) : ActionFrame s (s.failRead e) := by
  unfold State.failRead
  split
  · exact frame_afterStop s e _
  · exact frame_endInstance s e _ _

theorem frame_startInstance (s : State) (e : Fin 4) (x : Slot) : ActionFrame s (s.startInstance e x) := by
  have h (t : State) (ht : ActionFrame s t) : ActionFrame s (State.runOps e x.tenant 1 x.ops t) :=
    ht.trans (frame_runOps e _ _ _ t)
  have h0 := (frame_setSlot s (s.engine e).slot { x with state := .firing, capture := 0 }).trans
    (frame_setEngine _ e ((s.engine e).startedAt s.now (1000000 * s.dsp.budget) (isLate s.now (s.engine e).due x.tolerance)))
  unfold State.startInstance
  simp only
  split
  · split
    · exact h _ h0
    · exact h0.trans (frame_endInstance _ e _ _)
    · exact h0.trans (frame_endInstance _ e _ _)
  · exact h _ h0

theorem frame_unbind (s : State) (e : Fin 4) : ActionFrame s (s.unbind e) := by
  unfold State.unbind
  split
  · split
    · exact ⟨rfl, rfl, rfl, rfl, rfl, rfl, rfl, rfl, rfl, rfl, rfl, rfl⟩
    · exact frame_setEngine s e _
  · exact .refl s

theorem frame_dspReact (s : State) : ActionFrame s s.dspReact :=
  ((((frame_unbind s 0).trans (frame_unbind _ 1)).trans (frame_unbind _ 2)).trans (frame_unbind _ 3)).trans
    (frame_stageAll _)

theorem frame_maskedWriteBack (s : State) (e : Fin 4) (x : Slot) (w : Width) (a : Addr) (o d m : Word64) :
    ActionFrame s (s.maskedWriteBack e x w a o d m) := by
  unfold State.maskedWriteBack
  split
  · split
    · exact (frame_issueOpWrite s e a w _).toRequest.toAction.trans (frame_continueAfter _ e x _)
    · exact frame_endInstance s e _ _
  · exact frame_waitForLink s e _ _

theorem frame_openGate (s : State) (n : Nat) (x : Slot) (g : Gate) : ActionFrame s (s.openGate n x g) :=
  ⟨rfl, rfl, rfl, rfl, rfl, rfl, rfl, rfl, rfl, rfl, rfl, rfl⟩

theorem frame_closeGate (s : State) (n : Nat) (x : Slot) (g : Gate) : ActionFrame s (s.closeGate n x g) := by
  unfold State.closeGate
  split
  · exact (frame_postCompletion s _ _).toRequest.toAction.trans (frame_endSlot _ _ _)
  · exact (frame_unplace s _).trans (frame_enterSchedule _ _ _ _)

theorem frame_processHead (s : State) : ActionFrame s s.processHead := by
  unfold State.processHead
  split
  · exact .refl s
  · split
    · exact frame_openGate s _ _ _
    · exact frame_closeGate s _ _ _
    · exact ⟨rfl, rfl, rfl, rfl, rfl, rfl, rfl, rfl, rfl, rfl, rfl, rfl⟩
  · exact ⟨rfl, rfl, rfl, rfl, rfl, rfl, rfl, rfl, rfl, rfl, rfl, rfl⟩

theorem frame_sweepUpTo : ∀ (n : Nat) (s : State), ActionFrame s (State.sweepUpTo n s)
  | 0, s => .refl s
  | n + 1, s => by
    unfold State.sweepUpTo
    split
    · exact (frame_processHead s).trans (frame_sweepUpTo n _)
    · exact .refl s

theorem frame_sweepCalendar (s : State) : ActionFrame s s.sweepCalendar := frame_sweepUpTo _ s

theorem frame_releaseListener (stamp : Nat) (s : State) (n : Nat) : ActionFrame s (State.releaseListener stamp s n) := by
  unfold State.releaseListener
  split
  · exact (frame_unplace s _).trans (frame_enterSchedule _ _ _ _)
  · exact .refl s

theorem frame_releaseAll (s : State) (l : Fin 4) (k : EdgeKind) (stamp : Nat) :
    ActionFrame s (s.releaseAll l k stamp) := by
  unfold State.releaseAll
  generalize s.qualifying l k stamp = ids
  induction ids generalizing s with
  | nil => exact .refl s
  | cons a rest ih => exact (frame_releaseListener stamp s a).trans (ih _)

end Sys2Proof.Machine
end

