-- ==== Sys2Proof/Laws/Completions.lean ====
section
/-! SUPPORT. What the completion operations do, said once: a write of CU, a notification, an entry, a completion against its
reservation, the answer to a request, and a release with the drain that follows it. -/

namespace Sys2Proof.Machine

open Sys2Proof

/-! ## Writes of CU (R177, R199) -/

@[simp] theorem CuWrite.cuWrite?_txn (w : CuWrite) : w.txn.cuWrite? = some w := by cases w <;> rfl

@[simp] theorem State.handed_setCq (s : State) (q : Fin 16) (x : CqContext) : (s.setCq q x).handed = s.handed := rfl

@[simp] theorem State.handed_setSq (s : State) (r : Fin 16) (x : SqContext) : (s.setSq r x).handed = s.handed := rfl

@[simp] theorem State.handed_setCtx (s : State) (c : Fin 8) (x : ReqContext) : (s.setCtx c x).handed = s.handed := rfl

@[simp] theorem State.handed_freeContext (s : State) (c : Fin 8) (r : Fin 16) : (s.freeContext c r).handed = s.handed :=
  rfl

@[simp] theorem State.hp_handCuWrite (s : State) (w : CuWrite) : (s.handCuWrite w).hp = s.hp.takeCuWrite w := rfl

@[simp] theorem State.cu_handCuWrite (s : State) (w : CuWrite) : (s.handCuWrite w).cu = s.cu := rfl

@[simp] theorem State.cq_handCuWrite (s : State) (w : CuWrite) (q : Fin 16) : (s.handCuWrite w).cq q = s.cq q := rfl

@[simp] theorem HostPort.takeAll_nil (h : HostPort) : h.takeAll [] = h := rfl

@[simp] theorem HostPort.takeAll_cons (h : HostPort) (w : CuWrite) (ws : List CuWrite) :
    h.takeAll (w :: ws) = (h.takeCuWrite w).takeAll ws := rfl

@[simp] theorem HostPort.takeAll_append (h : HostPort) (ws vs : List CuWrite) :
    h.takeAll (ws ++ vs) = (h.takeAll ws).takeAll vs := List.foldl_append

/-- Whatever the link does, a write that CU hands over comes after every write handed over before it. -/
theorem State.handed_handCuWrite (s : State) (w : CuWrite) : (s.handCuWrite w).handed = s.handed ++ [w] := by
  unfold State.handed
  rw [State.hp_handCuWrite, HostPort.takeCuWrite]
  split
  · split
    · rename_i h
      have hp : s.hp.posted = [] := by
        simp only [HostPort.linkOpen, Bool.and_eq_true, List.isEmpty_iff] at h
        exact h.1
      simp [hp]
    · simp [Posted.cuWrite?]
  · simp [Posted.cuWrite?]

/-- What CU has handed over can be read off HP. -/
theorem HandsOver.of_hp : ∀ {ws : List CuWrite} {s t : State}, t.hp = s.hp.takeAll ws → HandsOver s t ws
  | [], s, t, h => ⟨h, by rw [List.append_nil, State.handed, h]; rfl⟩
  | w :: ws, s, t, h => by
    obtain ⟨-, g⟩ := HandsOver.of_hp (s := s.handCuWrite w) (t := t) h
    exact ⟨h, by rw [g, State.handed_handCuWrite, List.append_assoc]; rfl⟩

/-! ## Notifications (R187, R188) -/

theorem State.hp_notifyIfDue (s : State) (q : Fin 16) : (s.notifyIfDue q).hp = s.hp.takeAll ((s.cq q).notices q) := by
  unfold State.notifyIfDue CqContext.notices
  split <;> rfl

theorem State.cu_notifyIfDue (s : State) (q : Fin 16) : (s.notifyIfDue q).cu = s.cu.set q (s.cq q).settled := by
  unfold State.notifyIfDue CqContext.settled
  split
  · simp [State.setCq]
  · simp [State.cq]

/-! ## Entries (R177) -/

theorem State.hp_writeEntry (s : State) (q : Fin 16) (c : Completion) :
    (s.writeEntry q c).hp = s.hp.takeAll ((s.cq q).entryWrite q c :: (s.cq q).afterWrite.notices q) := by
  rw [State.writeEntry, State.hp_notifyIfDue, State.cq_handCuWrite, State.cq_setCq_self]
  rfl

theorem State.cu_writeEntry (s : State) (q : Fin 16) (c : Completion) :
    (s.writeEntry q c).cu = s.cu.set q (s.cq q).afterWrite.settled := by
  simp only [State.writeEntry, State.cu_notifyIfDue, State.cu_handCuWrite, State.cq_handCuWrite, State.cq_setCq_self]
  simp [State.setCq]

theorem State.writeRequestCompletion_of_active {s : State} {q : Fin 16} (c : Completion) (h : (s.cq q).state = .active) :
    s.writeRequestCompletion q c = (s.setCq q { s.cq q with owed := (s.cq q).owed - 1 }).writeEntry q c := by
  unfold State.writeRequestCompletion
  split <;> rename_i k
  · rw [h] at k; cases k
  · rw [h] at k; cases k
  · rfl

theorem State.writeRequestCompletion_of_faulted {s : State} {q : Fin 16} (c : Completion)
    (h : (s.cq q).state = .faulted) :
    s.writeRequestCompletion q c = (s.setCq q { s.cq q with owed := (s.cq q).owed - 1 }).loseCompletion q := by
  unfold State.writeRequestCompletion
  split <;> rename_i k
  · rw [h] at k; cases k
  · rfl
  · rw [h] at k; cases k

/-- Using up a reservation and writing an entry touch different fields. -/
theorem CqContext.settled_afterWrite_owed (x : CqContext) (n : Nat) :
    (CqContext.afterWrite { x with owed := n }).settled = { x.afterWrite.settled with owed := n } := by
  have hd : (CqContext.afterWrite { x with owed := n }).notifyDue = x.afterWrite.notifyDue := rfl
  unfold CqContext.settled
  rw [hd]
  split <;> rfl

/-- A request completion at an ACTIVE ring (R180): the entry is written, with the notification that falls due by it, and
the reservation is used up. -/
theorem State.writeRequestCompletion_active (s : State) (q : Fin 16) (c : Completion) (h : (s.cq q).state = .active) :
    (s.writeRequestCompletion q c).hp = s.hp.takeAll ((s.cq q).entryWrite q c :: (s.cq q).afterWrite.notices q)
    ∧ (s.writeRequestCompletion q c).cu
        = s.cu.set q { (s.cq q).afterWrite.settled with owed := (s.cq q).owed - 1 } := by
  rw [State.writeRequestCompletion_of_active c h]
  constructor
  · rw [State.hp_writeEntry, State.cq_setCq_self]
    rfl
  · rw [State.cu_writeEntry, State.cq_setCq_self, CqContext.settled_afterWrite_owed]
    simp [State.setCq]

/-- A request completion at a FAULTED ring is lost and counted (R180, R190). -/
theorem State.writeRequestCompletion_faulted (s : State) (q : Fin 16) (c : Completion) (h : (s.cq q).state = .faulted) :
    (s.writeRequestCompletion q c).handed = s.handed
    ∧ (s.writeRequestCompletion q c).cu
        = s.cu.set q { s.cq q with owed := (s.cq q).owed - 1, lost := raise (s.cq q).lost 1 } := by
  rw [State.writeRequestCompletion_of_faulted c h]
  exact ⟨rfl, by simp [State.loseCompletion, State.setCq, State.cq]⟩

/-! ## Answers (R166, R167, R170) -/

theorem State.retireIfDone_of_not_deleting (s : State) (r : Fin 16) (h : (s.sq r).state ≠ .deleting) :
    s.retireIfDone r = s := by
  simp [State.retireIfDone, h]

theorem State.rqe_freeContext (s : State) (c : Fin 8) (r : Fin 16) :
    (s.freeContext c r).rqe = { s.rqe with
      ctxs := s.rqe.ctxs.set c .free, sqs := s.rqe.sqs.set r { s.rqe.sqs[r] with inFlight := false } } := rfl

/-- A request completed on an ACTIVE completion ring, before its ring may retire: it is answered. -/
theorem State.answered_freeContext (u : State) (c : Fin 8) (r : Fin 16) (x : Result)
    (hq : (u.cq (u.sq r).cq).state = .active) :
    Answered u ((u.writeRequestCompletion (u.sq r).cq (x.completion r (u.sq r).head)).freeContext c r) c r x
    ∧ (((u.writeRequestCompletion (u.sq r).cq (x.completion r (u.sq r).head)).freeContext c r).sq r)
        = { u.sq r with inFlight := false } := by
  have hw := u.writeRequestCompletion_active (u.sq r).cq (x.completion r (u.sq r).head) hq
  have hf := frame_writeRequestCompletion u (u.sq r).cq (x.completion r (u.sq r).head)
  generalize u.writeRequestCompletion (u.sq r).cq (x.completion r (u.sq r).head) = w at hw hf
  refine ⟨⟨(HandsOver.of_hp (t := w.freeContext c r) hw.1).2, hw.2, ?_, hf.ast, hf.dsp, hf.wtb, hf.lnu, hf.tb, hf.pending,
    hw.1⟩, ?_⟩
  · rw [State.rqe_freeContext, hf.rqe]
    rfl
  · rw [State.freeContext, State.sq_setSq_self]
    show { w.rqe.sqs[r] with inFlight := false } = _
    rw [hf.rqe]
    rfl

/-- Completing a request of a ring that is not being deleted, on an ACTIVE completion ring, answers it and does nothing
else. -/
theorem State.answered_completeRequest (u : State) (c : Fin 8) (r : Fin 16) (x : Result)
    (hr : (u.sq r).state ≠ .deleting) (hq : (u.cq (u.sq r).cq).state = .active) :
    Answered u (u.completeRequest c r x) c r x := by
  obtain ⟨ha, hs⟩ := u.answered_freeContext c r x hq
  rw [State.completeRequest, State.retireIfDone_of_not_deleting _ _ (by rw [hs]; exact hr)]
  exact ha

/-- What `retireIfDone` does with a DELETING ring. -/
theorem State.retireIfDone_deleting {v : State} {r : Fin 16} (h : (v.sq r).state = .deleting) :
    RetiresIfEmpty v (v.retireIfDone r) r := by
  have he : (v.slotsOfRing r).isEmpty = true ↔ ∀ p ∈ v.ast.slots, p.2.ring ≠ r := by
    simp [State.slotsOfRing, List.isEmpty_iff, List.filter_eq_nil_iff]
  constructor
  · intro hw
    refine if_neg (fun hc => ?_)
    rcases hw with hi | ⟨p, hp, hr⟩
    · simp [hc.2.1] at hi
    · exact he.1 hc.2.2 p hp hr
  · intro hi hs
    rw [State.retireIfDone, if_pos ⟨h, hi, he.2 hs⟩]
    rfl

/-- Completing a request of a DELETING ring, on an ACTIVE completion ring, answers it, and the ring may then retire. -/
theorem State.completeRequest_deleting (u : State) (c : Fin 8) (r : Fin 16) (x : Result)
    (hr : (u.sq r).state = .deleting) (hq : (u.cq (u.sq r).cq).state = .active) :
    ∃ v, Answered u v c r x ∧ RetiresIfEmpty v (u.completeRequest c r x) r := by
  obtain ⟨ha, hs⟩ := u.answered_freeContext c r x hq
  exact ⟨_, ha, State.retireIfDone_deleting (by rw [hs]; exact hr)⟩

/-! ## Releases and drains (R182, R185, R189) -/

/-- Writing an entry looks at neither the outbox nor its length. -/
theorem CqContext.settled_afterWrite_outbox (x : CqContext) (o : List Completion) :
    (CqContext.afterWrite { x with outbox := o }).settled = { x.afterWrite.settled with outbox := o } := by
  have hd : (CqContext.afterWrite { x with outbox := o }).notifyDue = x.afterWrite.notifyDue := rfl
  unfold CqContext.settled
  rw [hd]
  split <;> rfl

theorem CqContext.wrote_outbox (n : Nat) : ∀ (x : CqContext) (o : List Completion),
    CqContext.wrote { x with outbox := o } n = { x.wrote n with outbox := o } := by
  induction n with
  | zero => exact fun _ _ => rfl
  | succ n ih => exact fun x o => by rw [CqContext.wrote, CqContext.settled_afterWrite_outbox, ih]; rfl

theorem CqContext.writes_outbox (q : Fin 16) (l : List Completion) : ∀ (x : CqContext) (o : List Completion),
    CqContext.writes { x with outbox := o } q l = x.writes q l := by
  induction l with
  | nil => exact fun _ _ => rfl
  | cons c l ih => exact fun x o => by rw [CqContext.writes, CqContext.settled_afterWrite_outbox, ih]; rfl

theorem CqContext.settled_room (x : CqContext) : x.settled.room = x.room := by unfold CqContext.settled; split <;> rfl

theorem CqContext.settled_outbox (x : CqContext) : x.settled.outbox = x.outbox := by unfold CqContext.settled; split <;> rfl

theorem CqContext.settled_state (x : CqContext) : x.settled.state = x.state := by unfold CqContext.settled; split <;> rfl

theorem CqContext.afterWrite_room (x : CqContext) : x.afterWrite.settled.room = x.room - 1 := by
  rw [CqContext.settled_room]
  simp only [CqContext.room, CqContext.afterWrite]
  omega

theorem State.cu_set_self (s : State) (q : Fin 16) : s.cu.set q (s.cq q) = s.cu := by simp [State.cq]

/-- What a drain does: the oldest held completions are written, as many as there is room for, and the others stay held. -/
theorem State.drainUpTo_effect (q : Fin 16) : ∀ (n : Nat) (s : State) (k : Nat),
    k = min (min n (s.cq q).outbox.length) (s.cq q).room →
    (State.drainUpTo q n s).hp = s.hp.takeAll ((s.cq q).writes q ((s.cq q).outbox.take k))
    ∧ (State.drainUpTo q n s).cu = s.cu.set q { (s.cq q).wrote k with outbox := (s.cq q).outbox.drop k }
  | 0, s, k, hk => by
    obtain rfl : k = 0 := by omega
    exact ⟨by simp [State.drainUpTo, CqContext.writes], (s.cu_set_self q).symm⟩
  | n + 1, s, k, hk => by
    rw [State.drainUpTo]
    cases ho : (s.cq q).outbox with
    | nil =>
      obtain rfl : k = 0 := by rw [ho] at hk; simpa using hk
      exact ⟨by simp [CqContext.writes], by
        have : { (s.cq q).wrote 0 with outbox := [] } = s.cq q := by rw [← ho]; rfl
        simp [this, s.cu_set_self q]⟩
    | cons c rest =>
      dsimp only
      by_cases hr : 1 ≤ (s.cq q).room
      · rw [if_pos hr]
        set u := (s.setCq q { s.cq q with outbox := rest }).writeEntry q c with hu
        have hcu : u.cu = s.cu.set q { (s.cq q).afterWrite.settled with outbox := rest } := by
          rw [hu, State.cu_writeEntry, State.cq_setCq_self, CqContext.settled_afterWrite_outbox]
          simp [State.setCq]
        have huq : u.cq q = { (s.cq q).afterWrite.settled with outbox := rest } := by
          rw [State.cq, hcu]; simp
        have hroom : (u.cq q).room = (s.cq q).room - 1 := by
          rw [huq]; exact (s.cq q).afterWrite_room
        have huo : (u.cq q).outbox = rest := by rw [huq]
        obtain ⟨m, rfl⟩ : ∃ m, k = m + 1 := ⟨k - 1, by rw [ho] at hk; simp only [List.length_cons] at hk; omega⟩
        obtain ⟨h1, h2⟩ := State.drainUpTo_effect q n u m (by
          rw [hroom, huo]; rw [ho] at hk; simp only [List.length_cons] at hk; omega)
        rw [h1, h2, huo, huq, hcu, CqContext.wrote_outbox, CqContext.writes_outbox]
        refine ⟨?_, by simp [CqContext.wrote]⟩
        rw [hu, State.hp_writeEntry, State.cq_setCq_self]
        simp only [List.take_succ_cons, CqContext.writes, HostPort.takeAll_append, HostPort.takeAll_cons]
        rfl
      · rw [if_neg hr]
        obtain rfl : k = 0 := by omega
        exact ⟨by simp [CqContext.writes], by rw [List.drop_zero, ← ho]; exact (s.cu_set_self q).symm⟩

/-- What a release on an ACTIVE ring does (R182, R185, R189): the notification of the re-armed ring, if one is due, and then
the held completions that have room, oldest first. -/
theorem State.applyRelease_effect (s : State) (q : Fin 16) (i k : Nat) (x : CqContext) (ha : (s.cq q).state = .active)
    (hx : x = ((s.cq q).released i).rearmed) (hk : k = min x.outbox.length x.room) :
    (s.applyRelease q i).hp = s.hp.takeAll (x.notices q ++ x.settled.writes q (x.outbox.take k))
    ∧ (s.applyRelease q i).cu = s.cu.set q { x.settled.wrote k with outbox := x.outbox.drop k } := by
  have hxa : x.state = .active := by rw [hx]; exact ha
  rw [State.applyRelease, if_pos ha, ← hx]
  have hcu : ((s.setCq q x).notifyIfDue q).cu = s.cu.set q x.settled := by
    rw [State.cu_notifyIfDue, State.cq_setCq_self]; simp [State.setCq]
  have hcq : ((s.setCq q x).notifyIfDue q).cq q = x.settled := by rw [State.cq, hcu]; simp
  rw [State.drain, hcq, if_pos (by rw [x.settled_state]; exact hxa)]
  obtain ⟨h1, h2⟩ := State.drainUpTo_effect q x.settled.outbox.length ((s.setCq q x).notifyIfDue q) k (by
    rw [hcq, x.settled_room, x.settled_outbox]; omega)
  rw [h1, h2, hcq, hcu, State.hp_notifyIfDue, State.cq_setCq_self, x.settled_outbox]
  simp [State.setCq]

end Sys2Proof.Machine
end

