-- ==== Sys2Proof/Laws/Store.lean ====
section
/-! SUPPORT. The lists of the action store, the firing schedule and the gate calendar: reading after writing, where an
insertion goes, and what keeps the order. -/

namespace Sys2Proof.Machine

open Sys2Proof

/-! ## The store as a map from slot numbers (R41) -/

/-- The slot numbers rise. -/
def Rising (l : List (Nat × Slot)) : Prop := l.Pairwise (fun a b => a.1 < b.1)

theorem slotGet_slotPut_self (l : List (Nat × Slot)) (n : Nat) (x : Slot) : slotGet (slotPut l n x) n = some x := by
  induction l with
  | nil => simp [slotPut, slotGet]
  | cons p rest ih =>
    obtain ⟨k, y⟩ := p
    simp only [slotPut]
    split
    · simp [slotGet]
    · split
      · simp [slotGet]
      · rename_i h1 h2
        simp only [slotGet]
        rw [if_neg (by omega)]
        exact ih

theorem slotGet_slotPut_of_ne (l : List (Nat × Slot)) {n m : Nat} (x : Slot) (h : m ≠ n) :
    slotGet (slotPut l n x) m = slotGet l m := by
  induction l with
  | nil => simp [slotPut, slotGet, Ne.symm h]
  | cons p rest ih =>
    obtain ⟨k, y⟩ := p
    simp only [slotPut]
    split
    · simp [slotGet, Ne.symm h]
    · split
      · rename_i h1 h2
        subst h2
        simp [slotGet, Ne.symm h]
      · simp only [slotGet]
        split
        · rfl
        · exact ih

theorem slotGet_slotDel_self (l : List (Nat × Slot)) (n : Nat) : slotGet (slotDel l n) n = none := by
  induction l with
  | nil => rfl
  | cons p rest ih =>
    obtain ⟨k, y⟩ := p
    by_cases h : k = n
    · simpa [slotDel, h] using ih
    · have hk : slotDel ((k, y) :: rest) n = (k, y) :: slotDel rest n := by simp [slotDel, h]
      rw [hk]
      simpa [slotGet, h] using ih

theorem slotGet_slotDel_of_ne (l : List (Nat × Slot)) {n m : Nat} (h : m ≠ n) :
    slotGet (slotDel l n) m = slotGet l m := by
  induction l with
  | nil => rfl
  | cons p rest ih =>
    obtain ⟨k, y⟩ := p
    by_cases hk : k = n
    · subst hk
      have e : slotDel ((k, y) :: rest) k = slotDel rest k := by simp [slotDel]
      rw [e, ih]
      simp [slotGet, Ne.symm h]
    · have e : slotDel ((k, y) :: rest) n = (k, y) :: slotDel rest n := by simp [slotDel, hk]
      rw [e]
      simp only [slotGet]
      split
      · rfl
      · exact ih

theorem slotPut_mem {l : List (Nat × Slot)} {n : Nat} {x : Slot} {p : Nat × Slot} (h : p ∈ slotPut l n x) :
    p = (n, x) ∨ p ∈ l := by
  induction l with
  | nil => simpa [slotPut] using h
  | cons q rest ih =>
    obtain ⟨k, y⟩ := q
    simp only [slotPut] at h
    split at h
    · rcases List.mem_cons.1 h with h | h
      · exact .inl h
      · exact .inr h
    · split at h
      · rcases List.mem_cons.1 h with h | h
        · exact .inl h
        · exact .inr (List.mem_cons_of_mem _ h)
      · rcases List.mem_cons.1 h with h | h
        · exact .inr (h ▸ List.mem_cons_self)
        · rcases ih h with h | h
          · exact .inl h
          · exact .inr (List.mem_cons_of_mem _ h)

/-- Occupying or replacing a slot keeps the numbers rising. -/
theorem slotPut_rising {l : List (Nat × Slot)} (n : Nat) (x : Slot) (h : Rising l) : Rising (slotPut l n x) := by
  induction l with
  | nil => simp [slotPut, Rising]
  | cons q rest ih =>
    obtain ⟨k, y⟩ := q
    have hh := List.pairwise_cons.1 h
    simp only [slotPut]
    split
    · rename_i hn
      refine List.pairwise_cons.2 ⟨fun p hp => ?_, h⟩
      rcases List.mem_cons.1 hp with hp | hp
      · simp [hp, hn]
      · exact Nat.lt_trans hn (hh.1 p hp)
    · split
      · rename_i hn
        subst hn
        exact List.pairwise_cons.2 ⟨fun p hp => hh.1 p hp, hh.2⟩
      · rename_i h1 h2
        refine List.pairwise_cons.2 ⟨fun p hp => ?_, ih hh.2⟩
        rcases slotPut_mem hp with hp | hp
        · simp only [hp]
          omega
        · exact hh.1 p hp

/-- Freeing a slot keeps the numbers rising. -/
theorem slotDel_rising {l : List (Nat × Slot)} (n : Nat) (h : Rising l) : Rising (slotDel l n) := h.filter _

theorem slotGet_mem {l : List (Nat × Slot)} {n : Nat} {x : Slot} (h : slotGet l n = some x) : (n, x) ∈ l := by
  induction l with
  | nil => cases h
  | cons q rest ih =>
    obtain ⟨k, y⟩ := q
    simp only [slotGet] at h
    split at h
    · rename_i hk
      cases h
      exact hk ▸ List.mem_cons_self
    · exact List.mem_cons_of_mem _ (ih h)

/-- With rising numbers, a listed slot is the one that its number reads. -/
theorem slotGet_of_mem {l : List (Nat × Slot)} {n : Nat} {x : Slot} (hl : Rising l) (h : (n, x) ∈ l) :
    slotGet l n = some x := by
  induction l with
  | nil => cases h
  | cons q rest ih =>
    obtain ⟨k, y⟩ := q
    have hh := List.pairwise_cons.1 hl
    rcases List.mem_cons.1 h with h | h
    · cases h
      simp [slotGet]
    · have hk := hh.1 _ h
      simp only at hk
      simp only [slotGet]
      rw [if_neg (by omega)]
      exact ih hh.2 h

/-- The lowest free number at or above `n` is at least `n`, is not the number of a slot in a rising list at or above `n`,
and has an occupied slot for every number passed over. -/
theorem lowestFree_spec (l : List (Nat × Slot)) (n : Nat) (hl : Rising l) (hn : ∀ p ∈ l, n ≤ p.1) :
    n ≤ lowestFree n l ∧ lowestFree n l ≤ n + l.length ∧ ∀ p ∈ l, p.1 ≠ lowestFree n l := by
  induction l generalizing n with
  | nil => simp [lowestFree]
  | cons q rest ih =>
    obtain ⟨k, y⟩ := q
    have hh := List.pairwise_cons.1 hl
    simp only [lowestFree]
    split
    · rename_i hk
      subst hk
      obtain ⟨h1, h2, h3⟩ := ih (k + 1) hh.2 (fun p hp => hh.1 p hp)
      refine ⟨by omega, by simp only [List.length_cons]; omega, fun p hp => ?_⟩
      rcases List.mem_cons.1 hp with hp | hp
      · simp only [hp]
        omega
      · exact h3 p hp
    · rename_i hk
      refine ⟨Nat.le_refl n, by omega, fun p hp => ?_⟩
      have hk' := hn (k, y) List.mem_cons_self
      simp only at hk'
      rcases List.mem_cons.1 hp with hp | hp
      · simp only [hp]
        omega
      · have := hh.1 p hp
        simp only at this
        omega

/-! ## The firing schedule and the gate calendar (R65, R122) -/

/-- No entry would come before one that stands ahead of it. -/
def Ordered (l : List TimedEntry) : Prop := l.Pairwise (fun a b => b.before a = false)

theorem TimedEntry.before_iff (a b : TimedEntry) :
    a.before b = true ↔ a.time < b.time ∨ (a.time = b.time ∧ a.seq.toNat < b.seq.toNat) := by
  simp [TimedEntry.before, BitVec.lt_def]

theorem TimedEntry.before_eq_false_iff (a b : TimedEntry) :
    a.before b = false ↔ b.time < a.time ∨ (a.time = b.time ∧ b.seq.toNat ≤ a.seq.toNat) := by
  rw [← Bool.not_eq_true, TimedEntry.before_iff]
  omega

/-- An insertion adds the entry and nothing else. -/
theorem insertTimed_perm (x : TimedEntry) (l : List TimedEntry) : (insertTimed x l).Perm (x :: l) := by
  induction l with
  | nil => exact .refl _
  | cons y rest ih =>
    simp only [insertTimed]
    split
    · exact .refl _
    · exact (List.Perm.cons y ih).trans (List.Perm.swap x y rest)

theorem mem_insertTimed {x y : TimedEntry} {l : List TimedEntry} : y ∈ insertTimed x l ↔ y = x ∨ y ∈ l := by
  rw [(insertTimed_perm x l).mem_iff, List.mem_cons]

/-- An insertion keeps the order. -/
theorem insertTimed_ordered (x : TimedEntry) {l : List TimedEntry} (h : Ordered l) : Ordered (insertTimed x l) := by
  induction l with
  | nil => simp [insertTimed, Ordered]
  | cons y rest ih =>
    have hh := List.pairwise_cons.1 h
    simp only [insertTimed]
    split
    · rename_i hxy
      rw [TimedEntry.before_iff] at hxy
      refine List.pairwise_cons.2 ⟨fun z hz => ?_, h⟩
      rcases List.mem_cons.1 hz with hz | hz
      · subst hz
        rw [TimedEntry.before_eq_false_iff]
        omega
      · have := hh.1 z hz
        rw [TimedEntry.before_eq_false_iff] at *
        omega
    · rename_i hxy
      refine List.pairwise_cons.2 ⟨fun z hz => ?_, ih hh.2⟩
      rcases mem_insertTimed.1 hz with hz | hz
      · subst hz
        simpa using hxy
      · exact hh.1 z hz

/-- A removal keeps the order of the entries that stay. -/
theorem Ordered.filter {l : List TimedEntry} (h : Ordered l) (p : TimedEntry → Bool) : Ordered (l.filter p) :=
  List.Pairwise.filter p h

theorem Ordered.tail {l : List TimedEntry} (h : Ordered l) : Ordered l.tail := List.Pairwise.tail h

end Sys2Proof.Machine
end

