-- ==== Sys2Proof/Laws/Lines.lean ====
section
/-! SUPPORT. The gate calendar and the listeners: what processing its head can do, that the sweep comes to an end with its
head ahead, and which listeners an edge releases (R124 to R130). -/

namespace Sys2Proof.Machine

open Sys2Proof

/-! ## One head (R124 to R126) -/

/-- The head of the calendar, its key reached, opens, closes or is dropped, as its slot says. -/
theorem State.processHead_cases {s : State} {h : TimedEntry} {tail : List TimedEntry} (hc : s.lnu.calendar = h :: tail)
    (hr : h.time ≤ s.tb.value) :
    (∃ x g, s.slot? h.slot = some x ∧ x.state = .awaiting ∧ x.gate = some g ∧ s.processHead = s.openGate h.slot x g)
    ∨ (∃ x g, s.slot? h.slot = some x ∧ x.state = .listening ∧ x.gate = some g ∧ s.processHead = s.closeGate h.slot x g)
    ∨ ((∀ x g, s.slot? h.slot = some x → x.gate = some g → x.state ≠ .awaiting ∧ x.state ≠ .listening)
      ∧ s.processHead = { s with lnu := { s.lnu with calendar := tail } }) := by
  have hh : s.calendarHead? = some (h.slot, s.slot? h.slot) := by simp [State.calendarHead?, hc, State.now, hr]
  have hd : s.dropCalendarHead = { s with lnu := { s.lnu with calendar := tail } } := by simp [State.dropCalendarHead, hc]
  unfold State.processHead
  rw [hh]
  cases hx : s.slot? h.slot with
  | none => exact .inr (.inr ⟨by simp, hd⟩)
  | some x =>
    dsimp only
    split
    · exact .inl ⟨x, _, rfl, ‹_›, ‹_›, rfl⟩
    · exact .inr (.inl ⟨x, _, rfl, ‹_›, ‹_›, rfl⟩)
    · rename_i h1 h2
      refine .inr (.inr ⟨fun y g hy hg => ?_, hd⟩)
      cases hy
      exact ⟨fun k => h1 g k hg, fun k => h2 g k hg⟩

/-- Without a head that has been reached, there is none to process. -/
theorem State.calendarHead?_eq_none_iff (s : State) :
    s.calendarHead? = none ↔ ∀ h tail, s.lnu.calendar = h :: tail → s.tb.value < h.time := by
  unfold State.calendarHead? State.now
  cases s.lnu.calendar with
  | nil => simp
  | cons h tail => by_cases k : h.time ≤ s.tb.value <;> (simp [k]; try omega)

@[simp] theorem State.slot?_enterCalendar (s : State) (id k : Nat) (x : Slot) (st : SlotState) (key : Nat) :
    (s.enterCalendar id x st key).slot? k = if k = id then some { x with state := st, seq := s.ast.seq } else s.slot? k := by
  split
  · rename_i h; subst h; exact slotGet_slotPut_self _ _ _
  · exact slotGet_slotPut_of_ne _ _ ‹_›

@[simp] theorem State.slot?_enterSchedule (s : State) (id k : Nat) (x : Slot) (due : Nat) :
    (s.enterSchedule id x due).slot? k
      = if k = id then some { x with state := .armed, due := due, seq := s.ast.seq } else s.slot? k := by
  split
  · rename_i h; subst h; exact slotGet_slotPut_self _ _ _
  · exact slotGet_slotPut_of_ne _ _ ‹_›

@[simp] theorem State.slot?_unplace (s : State) (gone : Nat → Bool) (k : Nat) : (s.unplace gone).slot? k = s.slot? k := rfl

theorem State.slot?_freeSlot (s : State) (id k : Nat) :
    (s.freeSlot id).slot? k = if k = id then none else s.slot? k := by
  split
  · rename_i h; subst h; exact slotGet_slotDel_self _ _
  · exact slotGet_slotDel_of_ne _ ‹_›

/-- An opened gate: the slot is LISTENING under a new number, and the calendar holds it under its close time alone. -/
theorem State.openGate_effect (s : State) (id : Nat) (x : Slot) (g : Gate) :
    (∀ k, (s.openGate id x g).slot? k = if k = id then some { x with state := .listening, seq := s.ast.seq } else s.slot? k)
    ∧ (s.openGate id x g).lnu.calendar
        = insertTimed { slot := id, time := g.closeTime, seq := s.ast.seq } (s.lnu.calendar.filter (fun t => !(t.slot == id)))
      := by
  refine ⟨fun k => ?_, rfl⟩
  show ((s.unplace (fun k => k == id)).enterCalendar id x .listening g.closeTime).slot? k = _
  rw [State.slot?_enterCalendar, State.slot?_unplace]
  rfl

/-- A closed gate: the slot has left the calendar, and no other slot is touched. -/
theorem State.closeGate_effect (s : State) (id : Nat) (x : Slot) (g : Gate) :
    (∀ k, k ≠ id → (s.closeGate id x g).slot? k = s.slot? k)
    ∧ (s.closeGate id x g).lnu.calendar = s.lnu.calendar.filter (fun t => !(t.slot == id)) := by
  unfold State.closeGate
  split
  · have hp := frame_postCompletion s (s.sq x.ring).cq (gateClosedCompletion x s.now g.closeTime)
    generalize s.postCompletion (s.sq x.ring).cq (gateClosedCompletion x s.now g.closeTime) = t at hp
    have hr := frame_retireIfDone (t.freeSlot id) x.ring
    refine ⟨fun k hk => ?_, ?_⟩
    · show slotGet ((t.freeSlot id).retireIfDone x.ring).ast.slots k = _
      rw [hr.ast]
      show (t.freeSlot id).slot? k = _
      rw [State.slot?_freeSlot, if_neg hk, State.slot?, hp.ast]; rfl
    · show ((t.freeSlot id).retireIfDone x.ring).lnu.calendar = _
      rw [hr.lnu, ← hp.lnu]; rfl
  · refine ⟨fun k hk => ?_, rfl⟩
    rw [State.slot?_enterSchedule, if_neg hk, State.slot?_unplace]

/-! ## The sweep comes to an end (R124, R129) -/

/-- How many heads the entries of a calendar can still become: two for an AWAITING action, one for any other. -/
def calendarWeight (slot : Nat → Option Slot) (l : List TimedEntry) : Nat :=
  (l.map (fun t => if (slot t.slot).any (fun x => x.state == .awaiting) then 2 else 1)).sum

theorem calendarWeight_le (slot : Nat → Option Slot) (l : List TimedEntry) : calendarWeight slot l ≤ 2 * l.length := by
  induction l with
  | nil => simp [calendarWeight]
  | cons t l ih =>
    simp only [calendarWeight, List.map_cons, List.sum_cons, List.length_cons] at ih ⊢
    split <;> omega

theorem length_le_calendarWeight (slot : Nat → Option Slot) (l : List TimedEntry) : l.length ≤ calendarWeight slot l := by
  induction l with
  | nil => simp [calendarWeight]
  | cons t l ih =>
    simp only [calendarWeight, List.map_cons, List.sum_cons, List.length_cons] at ih ⊢
    split <;> omega

theorem calendarWeight_filter_le (slot : Nat → Option Slot) (p : TimedEntry → Bool) (l : List TimedEntry) :
    calendarWeight slot (l.filter p) ≤ calendarWeight slot l := by
  induction l with
  | nil => simp [calendarWeight]
  | cons t l ih =>
    simp only [calendarWeight, List.map_cons, List.sum_cons, List.filter_cons] at ih ⊢
    split
    · simp only [List.map_cons, List.sum_cons]; omega
    · omega

theorem calendarWeight_congr {slot slot' : Nat → Option Slot} {l : List TimedEntry}
    (h : ∀ t ∈ l, slot' t.slot = slot t.slot) : calendarWeight slot' l = calendarWeight slot l := by
  unfold calendarWeight
  congr 1
  exact List.map_congr_left (fun t ht => by rw [h t ht])

theorem calendarWeight_insertTimed (slot : Nat → Option Slot) (x : TimedEntry) (l : List TimedEntry) :
    calendarWeight slot (insertTimed x l) = calendarWeight slot (x :: l) :=
  ((insertTimed_perm x l).map _).sum_eq

/-- The entries of other slots keep their weight when only one slot changes. -/
theorem calendarWeight_filter_congr {slot slot' : Nat → Option Slot} {id : Nat} (l : List TimedEntry)
    (h : ∀ k, k ≠ id → slot' k = slot k) :
    calendarWeight slot' (l.filter (fun t => !(t.slot == id))) = calendarWeight slot (l.filter (fun t => !(t.slot == id))) :=
  calendarWeight_congr (fun t ht => h _ (by simpa using (List.mem_filter.1 ht).2))

/-- Processing a head makes the calendar lighter. -/
theorem State.processHead_weight {s : State} {h : TimedEntry} {tail : List TimedEntry} (hc : s.lnu.calendar = h :: tail)
    (hr : h.time ≤ s.tb.value) :
    calendarWeight s.processHead.slot? s.processHead.lnu.calendar < calendarWeight s.slot? s.lnu.calendar := by
  have hf : ∀ id, id = h.slot → (s.lnu.calendar.filter (fun t => !(t.slot == id))) = tail.filter (fun t => !(t.slot == id)) := by
    intro id hid; simp [hc, hid]
  have hw : calendarWeight s.slot? s.lnu.calendar
      = (if (s.slot? h.slot).any (fun x => x.state == .awaiting) then 2 else 1) + calendarWeight s.slot? tail := by
    rw [hc]; simp [calendarWeight]
  have hle := calendarWeight_filter_le s.slot? (fun t => !(t.slot == h.slot)) tail
  rw [hw]
  rcases State.processHead_cases hc hr with ⟨x, g, hx, hs, -, he⟩ | ⟨x, g, hx, hs, -, he⟩ | ⟨-, he⟩
  · obtain ⟨h1, h2⟩ := State.openGate_effect s h.slot x g
    rw [he, h2, hf _ rfl, calendarWeight_insertTimed]
    have hg : calendarWeight (s.openGate h.slot x g).slot? (tail.filter (fun t => !(t.slot == h.slot)))
        = calendarWeight s.slot? (tail.filter (fun t => !(t.slot == h.slot))) :=
      calendarWeight_filter_congr _ (fun k hk => by rw [h1, if_neg hk])
    simp only [calendarWeight, List.map_cons, List.sum_cons] at hg hle ⊢
    rw [hg, h1]
    simp [hx, hs]
    omega
  · obtain ⟨h1, h2⟩ := State.closeGate_effect s h.slot x g
    rw [he, h2, hf _ rfl, calendarWeight_filter_congr _ h1]
    split <;> omega
  · rw [he]
    show calendarWeight s.slot? tail < _
    split <;> omega

/-- With as many rounds as the calendar weighs, the sweep ends with its head ahead, and more rounds change nothing. -/
theorem State.sweepUpTo_settled : ∀ (n : Nat) (s : State), calendarWeight s.slot? s.lnu.calendar ≤ n →
    (State.sweepUpTo n s).calendarHead? = none ∧ ∀ m, n ≤ m → State.sweepUpTo m s = State.sweepUpTo n s
  | 0, s, hn => by
    have hl : s.lnu.calendar = [] := List.length_eq_zero_iff.1 (by have := length_le_calendarWeight s.slot? s.lnu.calendar; omega)
    have hh : s.calendarHead? = none := by rw [State.calendarHead?_eq_none_iff]; simp [hl]
    refine ⟨hh, fun m _ => ?_⟩
    cases m <;> simp [State.sweepUpTo, hh]
  | n + 1, s, hn => by
    cases hh : s.calendarHead? with
    | none =>
      refine ⟨by simp [State.sweepUpTo, hh], fun m _ => ?_⟩
      cases m <;> simp [State.sweepUpTo, hh]
    | some p =>
      have hex : ∃ h tail, s.lnu.calendar = h :: tail ∧ h.time ≤ s.tb.value := by
        by_contra hc
        have := (State.calendarHead?_eq_none_iff s).2 (fun h tail hl => by
          by_contra hk; exact hc ⟨h, tail, hl, by omega⟩)
        rw [this] at hh; cases hh
      obtain ⟨h, tail, hl, hr⟩ := hex
      have hw := State.processHead_weight hl hr
      obtain ⟨k1, k2⟩ := State.sweepUpTo_settled n s.processHead (by omega)
      refine ⟨by simpa [State.sweepUpTo, hh] using k1, fun m hm => ?_⟩
      cases m with
      | zero => omega
      | succ m => simpa [State.sweepUpTo, hh] using k2 m (by omega)

/-- After the sweep, the head of the calendar lies ahead. -/
theorem State.sweepCalendar_ahead (s : State) : s.sweepCalendar.calendarHead? = none :=
  (State.sweepUpTo_settled _ s (calendarWeight_le _ _)).1

/-- The sweep of a calendar whose head lies ahead does nothing. -/
theorem State.sweepCalendar_of_ahead {s : State} (h : s.calendarHead? = none) : s.sweepCalendar = s := by
  unfold State.sweepCalendar
  cases 2 * s.lnu.calendar.length <;> simp [State.sweepUpTo, h]

/-- The sweep of a calendar whose head has been reached processes that head and sweeps what follows. -/
theorem State.sweepCalendar_step {s : State} {h : TimedEntry} {tail : List TimedEntry} (hc : s.lnu.calendar = h :: tail)
    (hr : h.time ≤ s.tb.value) : s.sweepCalendar = s.processHead.sweepCalendar := by
  have hh : s.calendarHead?.isSome = true := by simp [State.calendarHead?, hc, State.now, hr]
  have hw := State.processHead_weight hc hr
  have hle := calendarWeight_le s.slot? s.lnu.calendar
  have hm : calendarWeight s.processHead.slot? s.processHead.lnu.calendar ≤ 2 * s.lnu.calendar.length - 1 := by omega
  have h1 := (State.sweepUpTo_settled _ s.processHead (Nat.le_refl _)).2 _ hm
  have h2 := (State.sweepUpTo_settled _ s.processHead (Nat.le_refl _)).2 _
    (calendarWeight_le s.processHead.slot? s.processHead.lnu.calendar)
  unfold State.sweepCalendar
  rw [h2, ← h1]
  obtain ⟨n, hn⟩ : ∃ n, 2 * s.lnu.calendar.length = n + 1 := ⟨2 * tail.length + 1, by rw [hc]; simp; omega⟩
  rw [hn]
  simp [State.sweepUpTo, hh]

/-! ## Listeners (R128) -/

/-- A listener qualifies exactly when it is LISTENING, its gate's edge covers the edge, and the stamp lies in its
window. -/
theorem State.qualifies_iff (s : State) (k : EdgeKind) (stamp id : Nat) :
    s.qualifies k stamp id = true ↔ ∃ x g, s.slot? id = some x ∧ x.state = .listening ∧ x.gate = some g
      ∧ (g.edge = .either ∨ (g.edge = .rise ∧ k = .rise) ∨ (g.edge = .fall ∧ k = .fall))
      ∧ g.openTime ≤ stamp ∧ stamp ≤ g.closeTime := by
  unfold State.qualifies
  cases hx : s.slot? id with
  | none => simp
  | some x =>
    cases hg : x.gate with
    | none => simp [Slot.qualifies, hg]
    | some g =>
      have hcov : g.edge.covers k = true
          ↔ (g.edge = .either ∨ (g.edge = .rise ∧ k = .rise) ∨ (g.edge = .fall ∧ k = .fall)) := by
        cases g.edge <;> cases k <;> simp [EdgeSelect.covers]
      simp [Slot.qualifies, hg, hcov]

end Sys2Proof.Machine
end

