-- ==== Sys2Proof/Laws/PerInstr.lean ====
section
/-! SUPPORT. Per-command statements: what it is for each command to be well formed (R197, R198). -/

namespace Sys2Proof.Laws

/-- A command is well formed exactly when, if it is a register write, the write has no row of its own and a 32-bit write
carries 32 bits of data. Every other command is well formed with any operands. -/
def WellFormed.Statement (i : Instr) : Prop :=
  wellFormed i = true ↔ ∀ offset access data, i = .registerWrite offset access data →
    writeHasOwnRow offset access = false ∧ (access = .dword → data.toNat < 2 ^ 32)

/-- A well-formed command that is no register write satisfies the statement. -/
theorem WellFormed.other {i : Instr} (h : wellFormed i = true)
    (n : ∀ {offset access data}, i ≠ .registerWrite offset access data) : Statement i :=
  ⟨fun _ _ _ _ e => absurd e n, fun _ => h⟩

theorem WellFormed.enable : Statement .enable := 
  other rfl nofun

theorem WellFormed.teardown : Statement .teardown := 
  other rfl nofun

theorem WellFormed.teardownEnd : Statement .teardownEnd := 
  other rfl nofun

theorem WellFormed.reset (kind : ResetKind) : Statement (.reset kind) := 
  other rfl nofun

theorem WellFormed.busMasterEnableChange (on : Bool) : Statement (.busMasterEnableChange on) := 
  other rfl nofun

theorem WellFormed.registerWrite (offset : BitVec 12) (access : Access) (data : Word64) :
    Statement (.registerWrite offset access data) := by
  simp only [Statement, Instr.registerWrite.injEq, wellFormed, Bool.and_eq_true, Bool.not_eq_true']
  constructor
  · rintro ⟨h, g⟩ _ _ _ ⟨rfl, rfl, rfl⟩
    exact ⟨h, fun k => by subst k; simpa [writeDataFits] using g⟩
  · intro h
    obtain ⟨h, g⟩ := h _ _ _ ⟨rfl, rfl, rfl⟩
    refine ⟨h, ?_⟩
    cases access with
    | dword => simpa [writeDataFits] using g rfl
    | qword => rfl
    | other => rfl

theorem WellFormed.timeLowRead : Statement .timeLowRead := 
  other rfl nofun

theorem WellFormed.post (data : Word64) : Statement (.post data) := 
  other rfl nofun

theorem WellFormed.release (data : Word64) : Statement (.release data) := 
  other rfl nofun

theorem WellFormed.requestGrant : Statement .requestGrant := 
  other rfl nofun

theorem WellFormed.entryTaken (ctx : Fin 8) (entry : Entry) : Statement (.entryTaken ctx entry) := 
  other rfl nofun

theorem WellFormed.entryFetchFailed (ctx : Fin 8) : Statement (.entryFetchFailed ctx) := 
  other rfl nofun

theorem WellFormed.entryFetchTimeout (ctx : Fin 8) : Statement (.entryFetchTimeout ctx) := 
  other rfl nofun

theorem WellFormed.staleReadData (source : ReadSource) : Statement (.staleReadData source) := 
  other rfl nofun

theorem WellFormed.arm (ctx : Fin 8) : Statement (.arm ctx) := 
  other rfl nofun

theorem WellFormed.listFetchDone (ctx : Fin 8) (result : ListResult) : Statement (.listFetchDone ctx result) := 
  other rfl nofun

theorem WellFormed.listFetchTimeout (ctx : Fin 8) : Statement (.listFetchTimeout ctx) := 
  other rfl nofun

theorem WellFormed.cancel (ctx : Fin 8) : Statement (.cancel ctx) := 
  other rfl nofun

theorem WellFormed.cancelAll (ctx : Fin 8) : Statement (.cancelAll ctx) := 
  other rfl nofun

theorem WellFormed.amend (ctx : Fin 8) : Statement (.amend ctx) := 
  other rfl nofun

theorem WellFormed.query (ctx : Fin 8) : Statement (.query ctx) := 
  other rfl nofun

theorem WellFormed.setTenantLimits (ctx : Fin 8) : Statement (.setTenantLimits ctx) := 
  other rfl nofun

theorem WellFormed.setTime (ctx : Fin 8) : Statement (.setTime ctx) := 
  other rfl nofun

theorem WellFormed.stepTime (ctx : Fin 8) : Statement (.stepTime ctx) := 
  other rfl nofun

theorem WellFormed.slewTime (ctx : Fin 8) : Statement (.slewTime ctx) := 
  other rfl nofun

theorem WellFormed.readTimeState (ctx : Fin 8) : Statement (.readTimeState ctx) := 
  other rfl nofun

theorem WellFormed.slewExpired : Statement .slewExpired := 
  other rfl nofun

theorem WellFormed.timebaseCeiling (credits : Nat) : Statement (.timebaseCeiling credits) := 
  other rfl nofun

theorem WellFormed.holdDispatch (ctx : Fin 8) : Statement (.holdDispatch ctx) := 
  other rfl nofun

theorem WellFormed.resumeDispatch (ctx : Fin 8) : Statement (.resumeDispatch ctx) := 
  other rfl nofun

theorem WellFormed.setDispatch (ctx : Fin 8) : Statement (.setDispatch ctx) := 
  other rfl nofun

theorem WellFormed.configureInputLine (ctx : Fin 8) : Statement (.configureInputLine ctx) := 
  other rfl nofun

theorem WellFormed.grantLine (ctx : Fin 8) : Statement (.grantLine ctx) := 
  other rfl nofun

theorem WellFormed.revokeLine (ctx : Fin 8) : Statement (.revokeLine ctx) := 
  other rfl nofun

theorem WellFormed.setWindow (ctx : Fin 8) : Statement (.setWindow ctx) := 
  other rfl nofun

theorem WellFormed.clearWindow (ctx : Fin 8) : Statement (.clearWindow ctx) := 
  other rfl nofun

theorem WellFormed.createSubmissionRing (ctx : Fin 8) : Statement (.createSubmissionRing ctx) := 
  other rfl nofun

theorem WellFormed.deleteSubmissionRing (ctx : Fin 8) : Statement (.deleteSubmissionRing ctx) := 
  other rfl nofun

theorem WellFormed.createCompletionRing (ctx : Fin 8) : Statement (.createCompletionRing ctx) := 
  other rfl nofun

theorem WellFormed.tuneCompletionRing (ctx : Fin 8) : Statement (.tuneCompletionRing ctx) := 
  other rfl nofun

theorem WellFormed.deleteCompletionRing (ctx : Fin 8) : Statement (.deleteCompletionRing ctx) := 
  other rfl nofun

theorem WellFormed.identify (ctx : Fin 8) : Statement (.identify ctx) := 
  other rfl nofun

theorem WellFormed.identifyRecordIssued (ctx : Fin 8) (prefixBytes : Fin 64) : Statement (.identifyRecordIssued ctx prefixBytes) := 
  other rfl nofun

theorem WellFormed.stage : Statement .stage := 
  other rfl nofun

theorem WellFormed.instanceStart (engine : Fin 4) : Statement (.instanceStart engine) := 
  other rfl nofun

theorem WellFormed.budgetExpired (engine : Fin 4) : Statement (.budgetExpired engine) := 
  other rfl nofun

theorem WellFormed.dspStepEvent : Statement .dspStepEvent := 
  other rfl nofun

theorem WellFormed.readDataReturned (engine : Fin 4) (data : Word64) : Statement (.readDataReturned engine data) := 
  other rfl nofun

theorem WellFormed.maskedWriteReadReturned (engine : Fin 4) (data : Word64) : Statement (.maskedWriteReadReturned engine data) := 
  other rfl nofun

theorem WellFormed.pollReadReturned (engine : Fin 4) (data : Word64) : Statement (.pollReadReturned engine data) := 
  other rfl nofun

theorem WellFormed.readFailed (engine : Fin 4) : Statement (.readFailed engine) := 
  other rfl nofun

theorem WellFormed.readTimeout (engine : Fin 4) : Statement (.readTimeout engine) := 
  other rfl nofun

theorem WellFormed.writeAcceptedByLink (engine : Fin 4) : Statement (.writeAcceptedByLink engine) := 
  other rfl nofun

theorem WellFormed.pollSpacingElapsed (engine : Fin 4) : Statement (.pollSpacingElapsed engine) := 
  other rfl nofun

theorem WellFormed.pollLimitExpired (engine : Fin 4) : Statement (.pollLimitExpired engine) := 
  other rfl nofun

theorem WellFormed.waitElapsed (engine : Fin 4) : Statement (.waitElapsed engine) := 
  other rfl nofun

theorem WellFormed.lineRequest (engine : Fin 4) : Statement (.lineRequest engine) := 
  other rfl nofun

theorem WellFormed.inputEdge (line : Fin 4) (kind : EdgeKind) : Statement (.inputEdge line kind) := 
  other rfl nofun

theorem WellFormed.gateOpen : Statement .gateOpen := 
  other rfl nofun

theorem WellFormed.gateClose : Statement .gateClose := 
  other rfl nofun

theorem WellFormed.lnuStepEvent : Statement .lnuStepEvent := 
  other rfl nofun

theorem WellFormed.cuWriteAcceptedByLink : Statement .cuWriteAcceptedByLink := 
  other rfl nofun

theorem WellFormed.holdTimerExpired (ring : Fin 16) : Statement (.holdTimerExpired ring) := 
  other rfl nofun

theorem WellFormed.completionWriteFailed : Statement .completionWriteFailed := 
  other rfl nofun

theorem WellFormed.timebaseAdvance (credits : Nat) : Statement (.timebaseAdvance credits) := 
  other rfl nofun

end Sys2Proof.Laws
end

