-- ==== Sys2Proof/Laws/Requests.lean ====
section
/-! SUPPORT. Requests that are ready to take effect, and the tables that the request engine reads. -/

namespace Sys2Proof.Machine

open Sys2Proof

/-! ## The request that a context holds -/

/-- A request of this kind is in effect exactly when the part is READY and the context holds its entry. -/
theorem State.requestOf_eq_some_iff (s : State) (c : Fin 8) (k : ReqKind) (r : Fin 16) (e : Entry) :
    s.requestOf c k = some (r, e)
      ↔ s.hp.condition = .ready ∧ (s.ctx c).request? = some (r, e, .waiting) ∧ reqKindOf (kindCode e) = some k := by
  unfold State.requestOf State.isReady
  cases hc : s.hp.condition <;> simp
  rcases hx : (s.ctx c).request? with _ | ⟨r', e', p⟩
  · simp
  · cases p with
    | waiting =>
      simp only [Option.some.injEq, Prod.mk.injEq, and_true]
      split
      · rename_i hk
        simp only [Option.some.injEq, Prod.mk.injEq]
        exact ⟨fun ⟨h, g⟩ => ⟨⟨h, g⟩, g ▸ hk⟩, fun ⟨h, _⟩ => h⟩
      · rename_i hk
        simp only [reduceCtorEq, false_iff, not_and]
        exact fun h h2 => hk (h.2 ▸ h2)
    | listFetch _ _ _ _ => simp
    | identity _ => simp

/-- The request of a context whose request comes further: the same ring and entry, with the new progress. -/
theorem ReqContext.request?_withProgress {x : ReqContext} {r : Fin 16} {e : Entry} {p : Effect} (q : Effect)
    (h : x.request? = some (r, e, p)) : (x.withProgress q).request? = some (r, e, q) := by
  cases x <;> simp_all [ReqContext.request?, ReqContext.withProgress]

theorem AdminWaits.requestOf {s : State} {c : Fin 8} {k : ReqKind} {e : Entry} (h : AdminWaits s c k e) :
    s.requestOf c k = some (0, e) := (s.requestOf_eq_some_iff c k 0 e).2 ⟨h.1, h.2.1, h.2.2.1⟩

theorem TenantWaits.requestOf {s : State} {c : Fin 8} {k : ReqKind} {r : Fin 16} {e : Entry}
    (h : TenantWaits s c k r e) : s.requestOf c k = some (r, e) :=
  (s.requestOf_eq_some_iff c k r e).2 ⟨h.1, h.2.1, h.2.2.1⟩

/-- An effect that leaves the two rings 0 ACTIVE and bound to each other is answered on them. -/
theorem AdminWaits.answered {s : State} {c : Fin 8} {k : ReqKind} {e : Entry} (h : AdminWaits s c k e) (u : State)
    (x : Result) (hr : u.sq 0 = s.sq 0) (hq : (u.cq 0).state = (s.cq 0).state) :
    Answered u (u.completeRequest c 0 x) c 0 x := by
  obtain ⟨-, -, -, h1, h2, h3⟩ := h
  apply State.answered_completeRequest
  · rw [hr, h1]
    decide
  · rw [hr, h2, hq, h3]

/-- An effect that leaves the ring and its completion ring as they are is answered on them. -/
theorem TenantWaits.answered {s : State} {c : Fin 8} {k : ReqKind} {r : Fin 16} {e : Entry} (h : TenantWaits s c k r e)
    (u : State) (x : Result) (hr : u.sq r = s.sq r) (hq : u.cu = s.cu) :
    Answered u (u.completeRequest c r x) c r x := by
  obtain ⟨-, -, -, h1, h2⟩ := h
  apply State.answered_completeRequest
  · rw [hr]
    rcases h1 with h1 | h1 <;> rw [h1] <;> decide
  · rw [hr]
    simpa [State.cq, hq] using h2

/-! ## Numbers below a bound -/

theorem finOf_eq_some_iff {n k : Nat} {i : Fin n} : finOf n k = some i ↔ k = i.val := by
  unfold finOf
  split
  · rename_i h
    simp only [Option.some.injEq]
    constructor
    · intro g
      subst g
      rfl
    · intro g
      exact Fin.ext g
  · rename_i h
    simp only [reduceCtorEq, false_iff]
    intro g
    exact h (g ▸ i.isLt)

theorem finOf_eq_none_iff {n k : Nat} : finOf n k = none ↔ n ≤ k := by
  unfold finOf
  split <;> simp <;> omega

/-- The ring sizes are the powers of two from 8 to 4096. -/
theorem ringSizeOk_iff (n : Nat) : ringSizeOk n = true ↔ ∃ k, 3 ≤ k ∧ k ≤ 12 ∧ n = 2 ^ k := by
  constructor
  · intro h
    simp only [ringSizeOk, List.contains_cons, List.contains_nil, Bool.or_false, Bool.or_eq_true, beq_iff_eq] at h
    rcases h with h | h | h | h | h | h | h | h | h | h
    · exact ⟨3, by omega, by omega, h⟩
    · exact ⟨4, by omega, by omega, h⟩
    · exact ⟨5, by omega, by omega, h⟩
    · exact ⟨6, by omega, by omega, h⟩
    · exact ⟨7, by omega, by omega, h⟩
    · exact ⟨8, by omega, by omega, h⟩
    · exact ⟨9, by omega, by omega, h⟩
    · exact ⟨10, by omega, by omega, h⟩
    · exact ⟨11, by omega, by omega, h⟩
    · exact ⟨12, by omega, by omega, h⟩
  · rintro ⟨k, h3, h12, rfl⟩
    interval_cases k <;> rfl

/-! ## The tag index (R45) -/

/-- A tag that the index finds belongs to a listed slot of that ring. -/
theorem State.tagLookup_some {s : State} {r : Fin 16} {tag : Word32} {id : Nat} {x : Slot}
    (h : s.tagLookup r tag = some (id, x)) : (id, x) ∈ s.ast.slots ∧ x.ring = r ∧ x.tag = tag := by
  unfold State.tagLookup at h
  have hm := List.mem_of_find?_eq_some h
  have hp := List.find?_some h
  simp only [Bool.and_eq_true, beq_iff_eq] at hp
  exact ⟨hm, hp.1, hp.2⟩

/-- A tag that the index does not find is on no slot of that ring. -/
theorem State.tagLookup_none {s : State} {r : Fin 16} {tag : Word32} (h : s.tagLookup r tag = none) :
    ∀ p ∈ s.ast.slots, ¬ (p.2.ring = r ∧ p.2.tag = tag) := by
  intro p hp hpr
  have := List.find?_eq_none.1 h p hp
  simp [hpr.1, hpr.2] at this

end Sys2Proof.Machine
end

