-- ==== Sys2Proof/Laws/Staging.lean ====
section
/-! SUPPORT. Staging: what one head can bring about, and what is left when staging has gone on until the engines or the
eligible actions have run out (R69). -/

namespace Sys2Proof.Machine

open Sys2Proof

@[simp] theorem State.slot?_setSlot_self (s : State) (id : Nat) (x : Slot) : (s.setSlot id x).slot? id = some x :=
  slotGet_slotPut_self _ _ _

theorem State.slot?_setSlot_of_ne (s : State) {id k : Nat} (x : Slot) (h : k ≠ id) : (s.setSlot id x).slot? k = s.slot? k :=
  slotGet_slotPut_of_ne _ _ h

@[simp] theorem State.slot?_setEngine (s : State) (e : Fin 4) (x : Engine) (k : Nat) : (s.setEngine e x).slot? k = s.slot? k :=
  rfl

@[simp] theorem State.engine_setSlot (s : State) (id : Nat) (x : Slot) (e : Fin 4) : (s.setSlot id x).engine e = s.engine e :=
  rfl

/-- The lowest IDLE engine, or none where no engine is IDLE. -/
theorem State.idleEngine?_eq_some {s : State} {e : Fin 4} (h : s.idleEngine? = some e) :
    (s.engine e).state = .idle ∧ ∀ f < e, (s.engine f).state ≠ .idle := by
  simp only [State.idleEngine?, List.find?] at h
  repeat' split at h
  all_goals first
    | (cases h; rename_i h0; exact ⟨by simpa using h0, fun f hf => by fin_cases f <;> simp_all [Fin.lt_def]⟩)
    | cases h

theorem State.idleEngine?_eq_none {s : State} (h : s.idleEngine? = none) (e : Fin 4) : (s.engine e).state ≠ .idle := by
  have := List.find?_eq_none.1 h e (by fin_cases e <;> simp)
  simpa using this

theorem State.dueLessLeadReached_iff (s : State) (due : Nat) :
    s.dueLessLeadReached due = true ↔ due ≤ s.tb.value + 1000 * s.dsp.lead := decide_eq_true_iff

/-- One head: nothing is staged, the head is dropped, or it is bound to the lowest IDLE engine. -/
theorem State.stageHead_cases (s : State) :
    (s.stageHead = s ∧ (s.dsp.schedule = [] ∨ (∃ h rest, s.dsp.schedule = h :: rest ∧ s.tb.value + 1000 * s.dsp.lead < h.time)
      ∨ (∀ e, (s.engine e).state ≠ .idle) ∨ s.dsp.hold = true ∨ ¬ Lives s))
    ∨ ∃ h rest e, s.dsp.schedule = h :: rest ∧ h.time ≤ s.tb.value + 1000 * s.dsp.lead ∧ s.dsp.hold = false ∧ Lives s
      ∧ (s.engine e).state = .idle ∧ (∀ f < e, (s.engine f).state ≠ .idle)
      ∧ (((∀ x, s.slot? h.slot = some x → x.state ≠ .armed) ∧ s.stageHead = { s with dsp := { s.dsp with schedule := rest } })
        ∨ ∃ x, s.slot? h.slot = some x ∧ x.state = .armed
          ∧ s.stageHead = (({ s with dsp := { s.dsp with schedule := rest } }).setSlot h.slot
              { x with state := .staged }).setEngine e (Engine.boundTo h.slot h.time)) := by
  unfold State.stageHead
  cases hs : s.dsp.schedule with
  | nil => exact .inl ⟨rfl, .inl rfl⟩
  | cons h rest =>
    cases hi : s.idleEngine? with
    | none => exact .inl ⟨rfl, .inr (.inr (.inl (State.idleEngine?_eq_none hi)))⟩
    | some e =>
      obtain ⟨he, hf⟩ := State.idleEngine?_eq_some hi
      dsimp only
      split
      · rename_i hc
        simp only [Bool.and_eq_true, Bool.not_eq_true', State.live, bne_iff_ne, State.dueLessLeadReached_iff] at hc
        refine .inr ⟨h, rest, e, rfl, hc.1.1, hc.1.2, hc.2, he, hf, ?_⟩
        cases hx : s.slot? h.slot with
        | none => exact .inl ⟨by simp, rfl⟩
        | some x =>
          by_cases ha : x.state = .armed
          · exact .inr ⟨x, rfl, ha, by simp [ha]⟩
          · exact .inl ⟨by rintro y ⟨⟩; exact ha, by simp [ha]⟩
      · rename_i hc
        refine .inl ⟨rfl, ?_⟩
        simp only [State.live, Bool.and_eq_true, Bool.not_eq_true', bne_iff_ne, not_and_or, Bool.not_eq_false,
          State.dueLessLeadReached_iff] at hc
        rcases hc with (hc | hc) | hc
        · exact .inr (.inl ⟨h, rest, rfl, by omega⟩)
        · exact .inr (.inr (.inr (.inl hc)))
        · exact .inr (.inr (.inr (.inr (by rintro ⟨h1, h2⟩; rcases hc with hc | hc; exacts [hc h1, hc h2]))))

/-- Where nothing can be staged, nothing is. -/
theorem State.stagedFrom_refl {s : State} (h : s.dsp.schedule = []
      ∨ (∃ h rest, s.dsp.schedule = h :: rest ∧ s.tb.value + 1000 * s.dsp.lead < h.time)
      ∨ (∀ e, (s.engine e).state ≠ .idle) ∨ s.dsp.hold = true ∨ ¬ Lives s) : StagedFrom s s [] where
  order := rfl
  reached := by simp
  stopped _ := rfl
  settled hh hl := by
    rcases h with h | h | h | h | h
    · exact .inl h
    · exact .inr (.inl h)
    · exact .inr (.inr h)
    · rw [hh] at h; cases h
    · exact absurd hl h
  busy _ _ := rfl
  bound _ _ := .inl rfl
  lowest _ _ _ _ := rfl
  slots _ := .inl rfl
  filled _ _ := by
    refine ⟨by simp, ?_⟩
    have : newlyBound s s = [] := List.filter_eq_nil_iff.2 (fun e _ => by
      cases (s.engine e).state <;> simp)
    simp [this]
  frame := rfl

/-- A head whose slot is no longer ARMED is dropped, and staging goes on with what follows it (R43). -/
theorem StagedFrom.drop {s t : State} {h : TimedEntry} {rest taken : List TimedEntry} (hs : s.dsp.schedule = h :: rest)
    (hr : h.time ≤ s.tb.value + 1000 * s.dsp.lead) (hh : s.dsp.hold = false) (hl : Lives s)
    (hx : ∀ x, s.slot? h.slot = some x → x.state ≠ .armed)
    (k : StagedFrom { s with dsp := { s.dsp with schedule := rest } } t taken) : StagedFrom s t (h :: taken) where
  order := by rw [hs, List.cons_append, ← k.order]
  reached := List.forall_mem_cons.2 ⟨hr, k.reached⟩
  stopped hc := by rcases hc with hc | hc; exacts [absurd (hh.symm.trans hc) (by simp), absurd hl hc]
  settled hh' hl' := k.settled hh' hl'
  busy := k.busy
  bound e he := (k.bound e he).imp_right (fun ⟨g, hg, hb⟩ => ⟨g, List.mem_cons_of_mem _ hg, hb⟩)
  lowest := k.lowest
  slots id := (k.slots id).imp_right (fun ⟨g, hg, hb⟩ => ⟨g, List.mem_cons_of_mem _ hg, hb⟩)
  filled ha _ := by
    obtain ⟨x, hx', hx''⟩ := ha h (by rw [hs]; exact List.mem_cons_self)
    exact absurd hx'' (hx x hx')
  frame := by rw [k.frame]

/-- An ARMED head is bound to the lowest IDLE engine, and staging goes on with what follows it. -/
theorem StagedFrom.bind {s t : State} {h : TimedEntry} {rest taken : List TimedEntry} {e : Fin 4} {x : Slot}
    (hs : s.dsp.schedule = h :: rest) (hr : h.time ≤ s.tb.value + 1000 * s.dsp.lead) (hh : s.dsp.hold = false)
    (hl : Lives s) (he : (s.engine e).state = .idle) (hf : ∀ f < e, (s.engine f).state ≠ .idle)
    (hx : s.slot? h.slot = some x) (ha : x.state = .armed)
    (k : StagedFrom ((({ s with dsp := { s.dsp with schedule := rest } } : State).setSlot h.slot
      { x with state := .staged }).setEngine e (Engine.boundTo h.slot h.time)) t taken) : StagedFrom s t (h :: taken) := by
  set u := (({ s with dsp := { s.dsp with schedule := rest } } : State).setSlot h.slot
      { x with state := .staged }).setEngine e (Engine.boundTo h.slot h.time) with hu
  have hue : u.engine e = Engine.boundTo h.slot h.time := State.engine_setEngine_self _ _ _
  have hun : ∀ f ≠ e, u.engine f = s.engine f := fun f hf => State.engine_setEngine_of_ne _ _ hf
  have hte : t.engine e = Engine.boundTo h.slot h.time := (k.busy e (by rw [hue]; simp [Engine.boundTo])).trans hue
  have hus : u.slot? h.slot = some { x with state := .staged } := slotGet_slotPut_self _ _ _
  have hud : ∀ id ≠ h.slot, u.slot? id = s.slot? id := fun id hid => slotGet_slotPut_of_ne _ _ hid
  have hts : t.slot? h.slot = some { x with state := .staged } := by
    rcases k.slots h.slot with hk | ⟨g, _, _, y, hy, hya, _⟩
    · exact hk.trans hus
    · rw [hus] at hy; cases hy; cases hya
  refine ⟨?_, List.forall_mem_cons.2 ⟨hr, k.reached⟩, ?_, k.settled, ?_, ?_, ?_, ?_, ?_, ?_⟩
  · have := k.order
    rw [hs, List.cons_append, ← this]
    rfl
  · rintro (hc | hc); exacts [absurd (hh.symm.trans hc) (by simp), absurd hl hc]
  · intro f hb
    have hne : f ≠ e := fun hc => hb (hc ▸ he)
    rw [k.busy f (by rw [hun f hne]; exact hb), hun f hne]
  · intro f hb
    by_cases hfe : f = e
    · subst hfe
      exact .inr ⟨h, List.mem_cons_self, hte⟩
    · rcases k.bound f (by rw [hun f hfe]; exact hb) with hk | ⟨g, hg, hk⟩
      · exact .inl (hk.trans (hun f hfe))
      · exact .inr ⟨g, List.mem_cons_of_mem _ hg, hk⟩
  · intro g f hlt hid
    have hfe : f ≠ e := by rintro rfl; rw [hte] at hid; cases hid
    have hsf : (s.engine f).state = .idle := by
      by_contra hc
      rw [k.busy f (by rw [hun f hfe]; exact hc), hun f hfe] at hid
      exact hc hid
    have hge : g ≠ e := by rintro rfl; exact hf f hlt hsf
    rw [k.lowest g f hlt hid, hun g hge]
  · intro id
    by_cases hid : id = h.slot
    · subst hid
      exact .inr ⟨h, List.mem_cons_self, rfl, x, hx, ha, hts⟩
    · rcases k.slots id with hk | ⟨g, hg, hgs, y, hy, hb⟩
      · exact .inl (hk.trans (hud id hid))
      · exact .inr ⟨g, List.mem_cons_of_mem _ hg, hgs, y, by rwa [hud id hid] at hy, hb⟩
  · intro hall hnd
    rw [hs] at hall hnd
    simp only [List.map_cons, List.nodup_cons] at hnd
    have hne : ∀ g ∈ rest, g.slot ≠ h.slot := fun g hg hc => hnd.1 (hc ▸ List.mem_map_of_mem hg)
    have hr : u.dsp.schedule = rest := rfl
    obtain ⟨k1, k2⟩ := k.filled (by
      rw [hr]; intro g hg; obtain ⟨y, hy, hya⟩ := hall g (List.mem_cons_of_mem _ hg)
      exact ⟨y, by rwa [hud _ (hne g hg)], hya⟩) (by rw [hr]; exact hnd.2)
    refine ⟨List.forall_mem_cons.2 ⟨⟨x, hx, hts⟩, fun g hg => ?_⟩, ?_⟩
    · obtain ⟨y, hy, hyt⟩ := k1 g hg
      refine ⟨y, ?_, hyt⟩
      rwa [hud _ (hne g ?_)] at hy
      have := k.order
      rw [hr] at this
      rw [this]; exact List.mem_append_left _ hg
    · have hsplit : newlyBound s t = e :: newlyBound u t := by
        have hb : (t.engine e).state = .bound := by rw [hte]; rfl
        have hub : (u.engine e).state = .bound := by rw [hue]; rfl
        have h0 : ∀ f ≠ e, (u.engine f).state = (s.engine f).state := fun f hne => by rw [hun f hne]
        unfold newlyBound
        fin_cases e <;> simp only [List.filter_cons, List.filter_nil] <;> simp_all
      rw [hsplit, List.map_cons, List.map_cons, k2, hte]
      rfl
  · rw [k.frame]
    rfl

/-- Staging head after head leaves nothing to stage, whatever rounds are left over. -/
theorem State.stageUpTo_stagedFrom : ∀ (n : Nat) (s : State), s.dsp.schedule.length ≤ n →
    ∃ taken, StagedFrom s (State.stageUpTo n s) taken
  | 0, s, hn => ⟨[], State.stagedFrom_refl (.inl (List.length_eq_zero_iff.1 (Nat.le_zero.1 hn)))⟩
  | n + 1, s, hn => by
    rw [State.stageUpTo]
    rcases s.stageHead_cases with ⟨hk, hc⟩ | ⟨h, rest, e, hs, hr, hh, hl, he, hf, hk | ⟨x, hx, ha, hk⟩⟩
    · have : ∀ m, State.stageUpTo m s = s := fun m => by
        induction m with
        | zero => rfl
        | succ m ih => rw [State.stageUpTo, hk, ih]
      rw [hk, this]
      exact ⟨[], State.stagedFrom_refl hc⟩
    · rw [hs] at hn
      obtain ⟨taken, k⟩ := State.stageUpTo_stagedFrom n { s with dsp := { s.dsp with schedule := rest } }
        (Nat.le_of_succ_le_succ hn)
      rw [hk.2]
      exact ⟨_, StagedFrom.drop hs hr hh hl hk.1 k⟩
    · rw [hs] at hn
      rw [hk]
      obtain ⟨taken, k⟩ := State.stageUpTo_stagedFrom n ((({ s with dsp := { s.dsp with schedule := rest } } : State).setSlot h.slot
        { x with state := .staged }).setEngine e (Engine.boundTo h.slot h.time)) (Nat.le_of_succ_le_succ hn)
      exact ⟨_, StagedFrom.bind hs hr hh hl he hf hx ha k⟩

/-- What staging achieves (R69, R71, R89, R91). -/
theorem State.stageAll_stagedFrom (s : State) : ∃ taken, StagedFrom s s.stageAll taken :=
  State.stageUpTo_stagedFrom _ s (Nat.le_refl _)

end Sys2Proof.Machine
end

