-- ==== Sys2Proof/Tests/Slice0.lean ====
section
/-! SUPPORT. Small tests. The expected values are the spec's own worked examples and tables, named at each test; a
`witness_…` theorem shows a state and operands that meet the hypotheses of the statement it is named after, clause by
clause. -/

namespace Sys2Proof.Tests

open Sys2Proof Sys2Proof.Machine

-- One test after another: each `decide +kernel` waits for the declarations before it, and holds a thread meanwhile.
set_option Elab.async false

/-! ## Small states -/

/-- The state that a command leaves. -/
def run (i : Instr) (s : State) : State :=
  match exec i s with
  | .next t => t
  | _ => State.reset

/-- An entry or a record from its fields, each a first byte and a number. -/
def bytes (n : Nat) (fields : List (Nat × Nat)) : BitVec n :=
  BitVec.ofNat n (fields.foldl (fun x f => x + f.2 * 2 ^ (8 * f.1)) 0)

/-- A tenant ring of tenant 3 with one request in flight. -/
def ring1 : SqContext :=
  { state := .active, tenant := 3, base := 0x300000, size := 32, head := 1, tail := 1, cq := 1, weight := 4,
    inFlight := true, fetchHold := false, credit := 3 }

/-- A completion ring of 64 entries with threshold 8, hold 100 µs and a notification address. -/
def ring1Cq : CqContext :=
  CqContext.created 0x200000 64 { addr := 0x5000, value := 7, threshold := 8, hold := 100 }

/-- A part that is READY and RUNNING, with the two rings 0, submission ring 1 and completion ring 1. -/
def part : State :=
  { State.reset with
    hp := { HostPort.reset with
      condition := .ready, enable := true, busMaster := true, credits := 4, adminSq := 0x100006, adminCq := 0x104007
      latched := some (0x100006, 0x104007) }
    rqe := { RequestEngine.reset with
      sqs := (RequestEngine.reset.sqs.set 0 { ring0Sq 0x100006 with inFlight := true }).set 1 ring1 }
    cu := (State.reset.cu.set 0 { ring0Cq 0x104007 with owed := 1 }).set 1 { ring1Cq with owed := 1 }
    tb := { value := 1000000, fraction := 0, state := .running, slew := .none } }

/-- An administrative request in context 0, and a tenant request of ring 1 in context 0. -/
def admin (e : Entry) : State := part.setCtx 0 (.effect 0 0 e .waiting)
def tenant (e : Entry) : State := part.setCtx 0 (.effect 1 0 e .waiting)

/-- The completion that a command has written: the last CU entry on the link, its ring and its record. -/
def completion (s : State) : Option (Fin 16 × Record) :=
  (s.hp.bus.filterMap (fun t => match t with
    | .cuEntry r _ d => some (r, d)
    | _ => none)).getLast?

/-- Status, failing index, aux16, aux32, time and value of a completion (11_formats.md section 11.3). -/
def fields (s : State) : Option (Nat × Nat × Nat × Nat × Nat × Nat) :=
  (completion s).map (fun p =>
    (bytesOf p.2 1 1, bytesOf p.2 3 1 / 16, bytesOf p.2 6 2, bytesOf p.2 12 4, bytesOf p.2 16 8, bytesOf p.2 24 8))

/-- An action of tenant 3, ring 1, tag 20, with a period and operations. -/
def action (st : SlotState) (period : Nat) (ops : List Op) : Slot :=
  { state := st, ring := 1, tenant := 3, tag := 20, period := period, count := 0, tolerance := 10, latePolicy := .fire,
    faultPolicy := .endAction, completionMode := .every, gate := none, ops := ops, due := 1000000, ended := 0,
    missed := 0, capture := 0, endRequested := false, used := 0, lateCarry := false, seq := 2 }

/-- A gate on IN0 that opens at 1,000,000 and closes at 1,500,000. -/
def gate : Gate :=
  { line := 0, edge := .rise, delay := 100, closePolicy := .fireAtClose, openTime := 1000000, closeTime := 1500000 }

/-- Slot 5 holds an action, ARMED in the firing schedule. -/
def armed (period : Nat) : State :=
  { part.setSlot 5 (action .armed period [.wait 8]) with
    dsp := { Dispatcher.reset with schedule := [{ slot := 5, time := 1000000, seq := 2 }] } }

/-- Slot 5 holds a gated action in the gate calendar. -/
def gated (st : SlotState) (g : Gate) (key : Nat) : State :=
  { part.setSlot 5 { action st 0 [.wait 8] with gate := some g } with
    lnu := { LineUnit.reset with
      calendar := [{ slot := 5, time := key, seq := 2 }]
      listen := LineUnit.reset.listen.set 0 (if st = .listening then [5] else []) } }

/-- Engine 1 runs an action whose operation in progress is in a phase of the operation path. -/
def running (ops : List Op) (p : OpPath) (stop : Option Stop) : State :=
  (part.setSlot 5 (action .firing 0 ops)).setEngine 1
    { Engine.released with
      state := .running, slot := 5, due := 1000000, start := 1000000, budget := 10000000, operation := 1, stop := stop
      path := p }

/-- A path that waits for a read. -/
def reading (timer limit : Nat) : OpPath :=
  { OpPath.reset with phase := .readWait, readTimer := timer, pollLimitTimer := limit, onLink := true }

/-- Slot 5 is bound to engine 1. -/
def bound (due : Nat) (policy : LatePolicy) : State :=
  (part.setSlot 5 { action .staged 0 [.wait 8] with due := due, latePolicy := policy }).setEngine 1
    { Engine.boundTo 5 due with fresh := false }

/-- A GRANT or DENY window. -/
def window (k : WindowKind) (base : Addr) (size : Nat) (tenants : BitVec 16) (r w : Bool) : Option Window :=
  some { kind := k, base := base, size := size, tenants := tenants, read := r, write := w }

/-- The window table of section 7.2.1. -/
def table : Vector (Option Window) 32 :=
  (((State.reset.wtb.set 0 (window .grant 0x40000000 0x100000 0xC true true)).set 1
    (window .deny 0x40080000 0x1000 0x8 false true)).set 5 (window .grant 0x40080000 0x40 0x8 true false)).set 9
    (window .grant 0x50000000 0x10000 0x20 false true)

/-- Tenant 3 may read and write 8000 0000h to 8000 FFFFh. -/
def granted : Vector (Option Window) 32 := State.reset.wtb.set 0 (window .grant 0x80000000 0x10000 0x8 true true)

/-! ## Well-formedness: each check refuses a term -/

theorem test_wellFormed_refuses_own_row : wellFormed (.registerWrite 0x28 .qword 5) = false := by decide

theorem test_wellFormed_refuses_control_low : wellFormed (.registerWrite 0x08 .dword 1) = false := by decide

theorem test_wellFormed_refuses_wide_dword : wellFormed (.registerWrite 0x18 .dword 0x100000000) = false := by decide

theorem test_wellFormed_accepts : wellFormed (.registerWrite 0x2C .dword 0xFFFFFFFF) = true
    ∧ wellFormed (.registerWrite 0x08 .other 1) = true ∧ wellFormed (.timebaseAdvance 3) = true := by decide

theorem test_no_word_spells_a_command : decodeTableWord 64 0x4C = none ∧ State.reset.withFetchWord 8 1 = State.reset := by
  decide +kernel

/-! ## Chapter 12.1: from reset to the first armed action -/

theorem test_enable_builds_ring_0 :
    let s := run .enable { State.reset with hp := { HostPort.reset with adminSq := 0x100006, adminCq := 0x104007 } }
    s.hp.condition = .ready ∧ (s.sq 0).base = 0x100000 ∧ (s.sq 0).size = 64 ∧ (s.cq 0).base = 0x104000
      ∧ (s.cq 0).size = 128 ∧ (s.cq 0).lap = true ∧ s.registerRead 0x10 .qword = 1 := by decide +kernel

theorem test_enable_refuses_reset_definitions :
    (run .enable State.reset).hp.configError = true ∧ (run .enable State.reset).hp.condition = .off := by decide +kernel

theorem test_set_time : fields (run (.setTime 0) (admin (bytes 1024 [(0, 0x4C), (8, 1000000000000)])))
    = some (0, 0, 0, 2, 1000000, 1000000000000) := by decide +kernel

theorem test_create_completion_ring :
    let s := run (.createCompletionRing 0) (admin (bytes 1024 [(0, 0x43), (1, 2), (8, 0x200000), (16, 64), (18, 100), (20, 8)]))
    fields s = some (0, 0, 0, 0, 1000000, 64) ∧ (s.cq 2).threshold = 8 ∧ (s.cq 2).hold = 100 := by decide +kernel

theorem test_set_window :
    let s := run (.setWindow 0) (admin (bytes 1024 [(0, 0x47), (2, 1), (3, 3), (4, 2), (8, 0x80000000), (16, 0x10000)]))
    fields s = some (0, 0, 0, 0, 1000000, 0) ∧ s.wtb[0] = window .grant 0x80000000 0x10000 2 true true := by
  decide +kernel

theorem test_grant_line :
    let s := run (.grantLine 0) (admin (bytes 1024 [(0, 0x4A), (1, 1), (2, 1), (3, 1)]))
    fields s = some (0, 0, 0, 0, 1000000, 1) ∧ (s.output 0).owner = some 1 := by decide +kernel

theorem test_create_submission_ring :
    let s := run (.createSubmissionRing 0)
      (admin (bytes 1024 [(0, 0x41), (1, 2), (2, 1), (3, 1), (4, 4), (8, 0x300000), (16, 32)]))
    fields s = some (0, 0, 0, 0, 1000000, 1) ∧ (s.sq 2).tenant = 1 ∧ (s.sq 2).credit = 4 := by decide +kernel

theorem test_post_moves_the_tail : ((run (.post 0x5) part).sq 0).tail = 5 ∧ ((run (.post 0x1001F) part).sq 1).tail = 31
    := by decide +kernel

theorem test_post_of_an_absent_ring : fields (run (.post 0x20005) part) = some (0x40, 0, 0, 0, 1000000, 5) := by
  decide +kernel

/-- The ARM of section 12.1.1: RELATIVE, a WRITE and a LINE. -/
def armEntry : Entry :=
  bytes 1024 [(0, 1), (1, 2), (2, 1), (3, 1), (4, 1), (8, 1000000), (28, 10), (30, 1), (31, 2),
    (64, 1), (65, 32), (72, 0x80000100), (80, 1), (96, 6), (98, 1), (99, 2)]

/-- Tenant 3 holds the window and the line that the ARM asks for. -/
def armReady (e : Entry) : State :=
  { tenant e with
    wtb := granted, lnu := { LineUnit.reset with
      outputs := LineUnit.reset.outputs.set 0 { owner := some 3, safe := .low, level := .low } } }

theorem test_arm :
    let s := run (.arm 0) (armReady armEntry)
    fields s = some (0, 0, 1, 2, 1000000, 2000000) ∧ s.dsp.schedule = [{ slot := 0, time := 2000000, seq := 0 }]
      ∧ s.ast.seq = 1 := by decide +kernel

theorem test_arm_needs_the_line : fields (run (.arm 0) { tenant armEntry with wtb := granted })
    = some (0x21, 2, 1, 0, 1000000, 0) := by decide +kernel

/-! ## The worked examples of the other chapters -/

/-- Section 1.5.1, the first period. -/
theorem test_slew_first_period :
    (Timebase.advance { value := 500000000000, fraction := 0, state := .running, slew := .timed 200000 500000000 })
      = { value := 500000000008, fraction := 1600000, state := .running, slew := .timed 200000 499999992 } := by
  decide +kernel

/-- Section 2.2.1, its three rows. -/
theorem test_aligned_first_due : firstDue? .aligned 250000 1000000 1000003250 20 = some 1000250000
    ∧ firstDue? .aligned 250000 1000000 1000230000 20 = some 1000250000
    ∧ firstDue? .aligned 250000 1000000 1000240000 20 = some 1001250000 := by decide +kernel

/-- Section 4.5.1: the end of the fourth instance, with counts 10 and 6. -/
theorem test_next_due_and_count :
    let x := { action .firing 1000000 [.wait 8] with count := 10, used := 3, ended := 3 }
    let r := endReport x 5000000 false .ok 8460000
    let q := endReport { x with count := 6 } 5000000 false .ok 8460000
    (r.nextDue, r.used, r.ended, r.missed, r.ends, r.reportedMissed) = (9000000, 7, 4, 3, false, 0)
      ∧ (q.ends, q.used, q.reportedMissed) = (true, 6, 2) := by decide +kernel

/-- Section 5.8: the value written, and the refusal after the window has lost its WRITE right. -/
theorem test_masked_write : maskedValue .w32 0x123456A7 0x50 0xF0 = 0x12345657 := by decide +kernel

theorem test_masked_write_refused :
    let s := { running [.maskedWrite .w32 0x80000010 0x50 0xF0, .wait 8] (reading 0 0) none with
      wtb := State.reset.wtb.set 0 (window .grant 0x80000000 0x10000 0x8 true false) }
    fields (run (.maskedWriteReadReturned 1 0x123456A7) s) = some (0x20, 1, 0, 1, 1000000, 0x123456A7) := by
  decide +kernel

/-- Section 5.9: read 4 returns without a match after the limit has passed. -/
theorem test_poll_expires :
    fields (run (.pollReadReturned 1 2) (running [.poll .w32 0x80000000 1 1 5000] (reading 1800 6400) none))
      = some (0x23, 1, 0, 1, 1000000, 2) := by decide +kernel

/-- Section 6.1.4: an edge 800 ns and one 2,000 ns after the last accepted edge. -/
def spaced (last suppressed : Nat) : State :=
  part.setInput 1
    { InputLine.reset with
      enabled := true, report := some .either, reportRing := some 1, spacing := 2000, lastEdge := some last
      suppressed := suppressed, level := some .high, sampled := false }

theorem test_edge_suppressed : ((run (.inputEdge 1 .fall) (spaced (1000000 - 800) 0)).input 1).suppressed = 1 := by
  decide +kernel

theorem test_edge_accepted :
    let s := run (.inputEdge 1 .fall) (spaced (1000000 - 2000) 2)
    fields s = some (0, 0, 2, 2, 1000000, 0) ∧ (s.input 1).suppressed = 0 := by decide +kernel

/-- Section 7.2.1, its six questions. -/
theorem test_window_questions : permitted table 3 .write 0x40000100 8 = true
    ∧ permitted table 3 .write 0x40080010 4 = false ∧ permitted table 2 .write 0x40080010 4 = true
    ∧ permitted table 3 .read 0x40080010 8 = true ∧ permitted table 5 .read 0x50000000 4 = false
    ∧ permitted table 4 .write 0x40000000 4 = false := by decide +kernel

/-- Section 8.4.1: rings 1, 3 and 7 with the given credits, and the pointer. -/
def rings (c1 c3 c7 pointer : Nat) : State :=
  let x (weight credit : Nat) : SqContext := { ring1 with tail := 9, inFlight := false, weight := weight, credit := credit }
  { part with rqe := { part.rqe with
      sqs := ((part.rqe.sqs.set 1 (x 2 c1)).set 3 (x 1 c3)).set 7 (x 1 c7), pointer := pointer } }

theorem test_grant_5_wraps :
    let s := run .requestGrant (rings 1 0 0 8)
    s.ctx 0 = .fetch 1 1 0 true ∧ (s.sq 1).credit = 0 ∧ s.rqe.pointer = 2 := by decide +kernel

theorem test_grant_6_new_round :
    let s := run .requestGrant (rings 0 0 0 2)
    s.ctx 0 = .fetch 3 1 0 true ∧ (s.sq 1).credit = 2 ∧ (s.sq 3).credit = 0 ∧ (s.sq 7).credit = 1
      ∧ s.rqe.pointer = 4 := by decide +kernel

/-- Section 9.4.1: completion ring 3 with one unit of room left, or none, and the pool. -/
def small (unreleased produced : Nat) (outbox : List Completion) (owed lost : Nat) (lap : Bool) : State :=
  part.setCq 3 { ring1Cq with
    size := 8, produced := produced, lap := lap, unreleased := unreleased, owed := owed, outbox := outbox, lost := lost }

def fire (tag : Word32) : Completion := { kind := .fire, status := .ok, source := 1, tag := tag }

theorem test_fire_takes_the_last_room :
    let s := (small 6 6 [] 1 0 true).postCompletion 3 (fire 1)
    (s.cq 3).unreleased = 7 ∧ (s.cq 3).produced = 7 ∧ (s.cq 3).outbox = []
      ∧ ((s.postCompletion 3 (fire 2)).cq 3).outbox = [fire 2] := by decide +kernel

theorem test_request_completion_reports_the_loss :
    let s := (small 7 7 [fire 2] 1 1 true).writeRequestCompletion 3 { kind := .request, status := .ok, source := 4 }
    (s.cq 3).owed = 0 ∧ (s.cq 3).unreleased = 8 ∧ (s.cq 3).lap = false ∧ (s.cq 3).lost = 0
      ∧ (completion s).map (fun p => (bytesOf p.2 0 1, bytesOf p.2 3 1, bytesOf p.2 4 2)) = some (0x81, 8, 1) := by
  decide +kernel

theorem test_release_drains :
    let s := run (.release 0x30003) (small 8 0 [fire 2] 0 0 false)
    (s.cq 3).unreleased = 6 ∧ (s.cq 3).produced = 1 ∧ (s.cq 3).outbox = [] ∧ (s.cq 3).consumer = 3 := by decide +kernel

/-- Section 9.7.1: the hold is reached at 50 µs with three entries pending, and the fourth entry at 120 µs. -/
def coalescing (pending timer : Nat) : State :=
  part.setCq 5 { ring1Cq with threshold := 4, hold := 50, unreleased := pending, pending := pending, holdTimer := some timer }

theorem test_hold_sends :
    let s := run (.holdTimerExpired 5) (coalescing 3 50000)
    (s.cq 5).notify = .sent ∧ (s.cq 5).pending = 0 ∧ s.hp.bus = [.cuNotify 5 0x5000 7] := by decide +kernel

theorem test_threshold_sends :
    let s := (coalescing 3 20000).writeEntry 5 (fire 1)
    (s.cq 5).notify = .sent ∧ s.hp.bus.length = 2 := by decide +kernel

/-- Section 12.2: instance 2, started late under SKIP by the step, ends at once. -/
theorem test_late_skip_misses_an_instant :
    let x := { action .staged 1000000 [.wait 8] with
      due := 2001000000, count := 5, used := 1, ended := 1, latePolicy := .skip }
    let s := { (part.setSlot 5 x).setEngine 1 { Engine.boundTo 5 2001000000 with fresh := false } with
      tb := { value := 2002800008, fraction := 0, state := .running, slew := .none } }
    let t := run (.instanceStart 1) s
    fields t = some (0x25, 0, 0, 2, 2002800008, 0)
      ∧ (t.slot? 5).map (fun y => (y.state, y.due, y.used, y.ended, y.missed)) = some (.armed, 2003000000, 3, 2, 1) := by
  decide +kernel

/-- Section 12.3: the edge at the close time, taken before the close. -/
theorem test_edge_before_close :
    let s := { gated .listening gate 1500000 with tb := { value := 1500000, fraction := 0, state := .running, slew := .none } }
    let t := run (.inputEdge 0 .rise) (s.setInput 0 { InputLine.reset with enabled := true, level := some .low, sampled := false })
    (t.slot? 5).map (fun y => (y.state, y.due)) = some (.armed, 1500100) ∧ t.lnu.calendar = [] := by decide +kernel

/-- Section 12.3: the close before the edge. -/
theorem test_close_before_edge :
    let s := { gated .listening gate 1500000 with tb := { value := 1500000, fraction := 0, state := .running, slew := .none } }
    ((run .gateClose s).slot? 5).map (fun y => (y.state, y.due)) = some (.armed, 1500000) := by decide +kernel

/-- The operation records of section 11.2.3. -/
theorem test_operation_records :
    opOf (bytes 256 [(0, 1), (1, 32), (8, 0x80000100), (16, 1)]) = some (.write .w32 0x80000100 1)
      ∧ opOf (bytes 256 [(0, 6), (2, 1), (3, 2)]) = some (.line 0 .high)
      ∧ opOf (bytes 256 [(0, 7), (4, 8)]) = some (.wait 8) ∧ opOf (bytes 256 [(0, 7), (4, 7)]) = none
      ∧ opOf (bytes 256 [(0, 2), (1, 64), (8, 4)]) = none ∧ opOf 0 = none := by decide +kernel

/-- The identity record of section 11.4: vendor code at byte 0, 16 and 16 rings, 1024 slots. -/
theorem test_identity_record : identityRecord = bytes 512 [(0, 0x7A31), (2, 0x0F40), (4, 1), (8, 16), (10, 16), (12, 15),
    (13, 4), (14, 4), (15, 4), (16, 1024), (18, 8), (19, 8), (20, 64), (21, 32), (24, 8), (28, 100)] := by decide +kernel

/-! ## Witnesses: states and operands that meet the hypotheses of the statements -/

/-- The part in another condition. -/
def inCondition (c : Condition) : State := { part with hp := { part.hp with condition := c } }

/-- The part at a timebase value, state and slew. -/
def atTime (v : Nat) (st : TimebaseState) (x : Slew) (s : State) : State :=
  { s with tb := { value := v, fraction := 999999999, state := st, slew := x } }

theorem witness_StepRunsFrontCommand :
    ({ part with pending := [.stage, .enable] } : State).pending = .stage :: [.enable] ∧ part.pending = [] := by
  decide +kernel

theorem witness_AdvanceAddsOnePeriod :
    (
      let s := atTime (2 ^ 63 - 10) .running (.timed (-500000) 65535000000) part
      TimebaseLaw s ∧ s.tb.carried ≤ Config.maxTime)
    ∧ (TimebaseLaw part ∧ part.tb.carried ≤ Config.maxTime ∧ part.tb.slew.rate = 0) := by decide +kernel

theorem witness_AdvanceIsHeldAtTheCeiling :
    (
      let s := atTime (2 ^ 63 - 8) .running (.timed 500000 16) part
      Config.maxTime < s.tb.carried ∧ s.tb.slew = .timed 500000 (8 + 8))
    ∧ (let s := atTime (2 ^ 63 - 1) .unset .none part
      TimebaseLaw s ∧ s.tb.value = 2 ^ 63 - 1) := by decide +kernel

theorem witness_ElapsedTimeCountsPeriods :
    (
      let s := running [.read .w32 0x80000000] (reading 99992 0) none
      (run (.timebaseAdvance 0) s).tb.value = 1000008 ∧ (s.engine 1).state = .running
        ∧ (s.engine 1).stop = none ∧ (s.engine 1).path.phase = .readWait)
    ∧ (let s := running [.wait 8] { OpPath.reset with phase := .waiting } none
      (s.engine 1).state = .running ∧ (s.engine 1).path.phase = .waiting)
    ∧ (let s := running [.poll .w32 0x80000000 1 1 5000] { OpPath.reset with phase := .pollGap } none
      (s.engine 1).state = .running ∧ (s.engine 1).path.phase = .pollGap)
    ∧ ((bound 1000000 .fire).engine 1).state = .bound
    ∧ (part.setCtx 2 (.fetch 1 1 99992 true)).ctx 2 = .fetch 1 1 99992 true
    ∧ (part.setCtx 2 (.effect 1 0 armEntry (.listFetch 5 1000000 8 true))).ctx 2
        = .effect 1 0 armEntry (.listFetch 5 1000000 8 true)
    ∧ (let s := coalescing 3 65534992
      s.hp.condition ≠ .fatal ∧ (s.cq 5).state = .active ∧ (s.cq 5).holdTimer = some 65534992)
    ∧ (inCondition .fatal).hp.condition = .fatal := by decide +kernel

theorem witness_SetTimeSetsTheClock :
    (
      let e := bytes 1024 [(0, 0x4C), (8, 2 ^ 63 - 1)]
      AdminWaits (admin e) 0 .setTime e ∧ bytesOf e 8 8 ≤ Config.maxTime)
    ∧ (let e := bytes 1024 [(0, 0x4C), (8, 2 ^ 63)]
      AdminWaits (admin e) 0 .setTime e ∧ Config.maxTime < bytesOf e 8 8) := by decide +kernel

/-- A STEP TIME entry with an offset. -/
def stepEntry (d : Int) : Entry := bytes 1024 [(0, 0x4D), (8, (BitVec.ofInt 64 d).toNat)]

theorem witness_StepTimeStepsTheClock :
    (AdminWaits (admin (stepEntry 5)) 0 .stepTime (stepEntry 5)
      ∧ (atTime 0 .unset .none (admin (stepEntry 5))).tb.state = .unset)
    ∧ (∀ d ∈ [(2 : Int) ^ 62, -(2 : Int) ^ 62, -(2 : Int) ^ 63],
        AdminWaits (admin (stepEntry d)) 0 .stepTime (stepEntry d)
        ∧ ((stepEntry d).extractLsb' 64 64).toInt = d ∧ 2 ^ 62 ≤ d.natAbs)
    ∧ (∀ d ∈ [(-1000001 : Int)], AdminWaits (admin (stepEntry d)) 0 .stepTime (stepEntry d)
        ∧ ((stepEntry d).extractLsb' 64 64).toInt = d ∧ d.natAbs < 2 ^ 62 ∧ (part.tb.value : Int) + d < 0) := by
  decide +kernel

theorem witness_StepTimeStepsTheClock_accepted :
    (∀ d ∈ [(-1000000 : Int), 2 ^ 62 - 1], AdminWaits (admin (stepEntry d)) 0 .stepTime (stepEntry d)
        ∧ ((stepEntry d).extractLsb' 64 64).toInt = d ∧ d.natAbs < 2 ^ 62 ∧ d ≠ 0 ∧ 0 ≤ (part.tb.value : Int) + d
        ∧ ((part.tb.value : Int) + d).toNat ≤ Config.maxTime)
    ∧ (AdminWaits (admin (stepEntry 0)) 0 .stepTime (stepEntry 0) ∧ part.tb.state = .running
        ∧ part.tb.value ≤ Config.maxTime) := by decide +kernel

/-- A SLEW TIME entry. -/
def slewEntry (r : Int) (ms : Nat) : Entry := bytes 1024 [(0, 0x4E), (8, (BitVec.ofInt 32 r).toNat), (12, ms)]

theorem witness_SlewsAreReportedAndRunOut :
    (∀ r ∈ [(-500001 : Int), -500000, 0, 500000, 500001],
      AdminWaits (admin (slewEntry r 65535)) 0 .slewTime (slewEntry r 65535)
        ∧ ((slewEntry r 65535).extractLsb' 64 32).toInt = r ∧ bytesOf (slewEntry r 65535) 12 2 = 65535)
    ∧ AdminWaits (admin (bytes 1024 [(0, 0x4F)])) 0 .readTimeState (bytes 1024 [(0, 0x4F)])
    ∧ (atTime 0 .unset .none part).tb.state = .unset
    ∧ (atTime 0 .running (.timed 5 0) part).tb.slew = .timed 5 0
    ∧ (atTime 0 .running (.timed 5 1) part).tb.slew = .timed 5 (0 + 1) := by decide +kernel

theorem witness_TimebaseLawIsKept : TimebaseLaw part
    ∧ step { part with pending := [.timebaseAdvance 1] } = .next (run (.timebaseAdvance 1) part) :=
  ⟨by decide +kernel, rfl⟩

theorem witness_PermissionTest : WindowLaw { part with wtb := table } ∧ permitted table 3 .write 0x400FFFF8 8 = true
    ∧ permitted table 3 .write 0x40080FFC 4 = false ∧ permitted table 3 .write 0x40081000 4 = true := by decide +kernel

/-- A SET WINDOW entry of a GRANT. -/
def windowEntry (index size : Nat) : Entry :=
  bytes 1024 [(0, 0x47), (1, index), (2, 1), (3, 3), (4, 0xFFFE), (8, 0x4000), (16, size)]

theorem witness_WindowCommands :
    (AdminWaits (admin (windowEntry 31 64)) 0 .setWindow (windowEntry 31 64)
      ∧ bytesOf (windowEntry 31 64) 1 1 = (31 : Fin 32).val ∧ (windowOf (windowEntry 31 64)).isSome = true)
    ∧ (AdminWaits (admin (windowEntry 31 96)) 0 .setWindow (windowEntry 31 96) ∧ windowOf (windowEntry 31 96) = none)
    ∧ (AdminWaits (admin (windowEntry 32 64)) 0 .setWindow (windowEntry 32 64) ∧ 32 ≤ bytesOf (windowEntry 32 64) 1 1)
    ∧ (∀ i ∈ [31, 32], AdminWaits (admin (bytes 1024 [(0, 0x48), (1, i)])) 0 .clearWindow (bytes 1024 [(0, 0x48), (1, i)])
        ∧ bytesOf (bytes 1024 [(0, 0x48), (1, i)]) 1 1 = i) := by decide +kernel

theorem witness_WindowLawIsKept :
    WindowLaw (admin (windowEntry 31 64)) ∧ (run (.setWindow 0) (admin (windowEntry 31 64))).wtb[31].isSome = true
      ∧ (validWindows table).any (fun w => w.size == 64) = true := by decide +kernel

theorem witness_FirstAndNextDue : 999999 < 1000000
    ∧ firstDue? .aligned 999999 1000000 (2 ^ 63 - 1) 20 = none ∧ firstDue? .relative (2 ^ 63 - 1) 0 1 20 = none
    ∧ nextStep 5000000 1000000 7999999 = 3 ∧ nextStep 5000000 1000000 8000000 = 4 := by decide +kernel

theorem witness_ArmTakesASlot :
    let s := armReady armEntry
    TenantWaits s 0 .arm 1 armEntry ∧ StoreLaw s ∧ s.tb.state = .running
      ∧ (armFieldsOf armEntry).params?.map
          (fun p => (firstDue? p.mode (armFieldsOf armEntry).dueValue (armFieldsOf armEntry).period s.tb.value s.dsp.lead,
            p.gate)) = some (some 2000000, none)
      ∧ (s.checkRecords (s.sq 1).tenant (armFieldsOf armEntry).inlineRecords).toOption
          = some [.write .w32 0x80000100 1, .line 0 .high]
      ∧ s.tagLookup 1 (armFieldsOf armEntry).tag = none ∧ s.holdings (s.sq 1).tenant < s.quota (s.sq 1).tenant
      ∧ s.ast.slots.length < 1024 ∧ (armFieldsOf armEntry).opCount < 3 := by decide +kernel

/-- The ARM with a gate that opens at its due time, and the ARM with a list of eight operations. -/
def gatedArm (listen : Nat) : Entry :=
  bytes 1024 [(0, 1), (1, 1), (2, 1), (3, 1), (4, 1), (8, 2 ^ 63 - 1 - 2 ^ 40), (28, 10), (30, 1), (31, 1), (40, 1), (42, 1),
    (43, 1), (48, listen), (64, 7), (68, 8)]

def listArm : Entry :=
  bytes 1024 [(0, 1), (1, 2), (2, 1), (3, 1), (4, 1), (8, 1000000), (28, 10), (30, 1), (31, 8), (32, 0x9000)]

theorem witness_ArmTakesASlot_gated :
    let s := tenant (gatedArm (2 ^ 40))
    TenantWaits s 0 .arm 1 (gatedArm (2 ^ 40))
      ∧ ((armFieldsOf (gatedArm (2 ^ 40))).params?.bind (·.gate)).map (fun g => (g.listen, g.delay)) = some (2 ^ 40, 0)
      ∧ firstDue? .absolute (armFieldsOf (gatedArm (2 ^ 40))).dueValue 0 s.tb.value s.dsp.lead = some (2 ^ 63 - 1 - 2 ^ 40)
      ∧ (fields (run (.arm 0) s)).map (fun x => (x.1, x.2.2.2.1)) = some (0, 3) := by decide +kernel

theorem witness_ArmTakesASlot_list :
    TenantWaits (tenant listArm) 0 .arm 1 listArm ∧ (armFieldsOf listArm).params?.isSome = true
      ∧ 3 ≤ (armFieldsOf listArm).opCount
      ∧ (run (.arm 0) (tenant listArm)).hp.bus = [.listRead 0 0x9000 256] := by decide +kernel

theorem witness_ArmRefusedInOrder :
    TenantWaits (tenant listArm) 0 .arm 1 listArm
    ∧ (fields (run (.arm 0) (atTime 5 .unset .none (tenant armEntry)))).map (·.1) = some 5
    ∧ (fields (run (.arm 0) (tenant (bytes 1024 [(0, 1)])))).map (·.1) = some 3
    ∧ (fields (run (.arm 0) (tenant (gatedArm (2 ^ 40 + 1))))).map (·.1) = some 3
    ∧ (fields (run (.arm 0) (atTime (2 ^ 63 - 1) .running .none (tenant armEntry)))).map (·.1) = some 4
    ∧ (fields (run (.arm 0) ((armReady armEntry).setSlot 3 { action .armed 0 [] with tag := 1 }))).map (·.1) = some 0xA
    ∧ (fields (run (.arm 0) { armReady armEntry with
        ast := { ActionStore.reset with quotas := Vector.replicate 16 0 } })).map (·.1) = some 0xD := by decide +kernel

/-- A list fetch of slot 5 in context 0. -/
def fetching (timer : Nat) (g : Option Gate) : State :=
  ((tenant listArm).setSlot 5 { action .pending 0 [] with gate := g }).setCtx 0
    (.effect 1 0 listArm (.listFetch 5 1000000 timer true))

/-- A list of eight WAITs, and one whose last record is reserved. -/
def eightWaits (last : Nat) : ListBytes :=
  bytes 2048 ((List.range 7).flatMap (fun i => [(32 * i, 7), (32 * i + 4, 8)]) ++ [(224, last), (228, 8)])

theorem witness_ListFetchEnds :
    (∀ n ∈ [99999, 100000], (fetching n none).hp.condition = .ready
      ∧ (fetching n none).ctx 0 = .effect 1 0 listArm (.listFetch 5 1000000 n true)
      ∧ ((fetching n none).slot? 5).isSome = true ∧ ((fetching n none).sq 1).state ≠ .deleting
      ∧ ((fetching n none).cq ((fetching n none).sq 1).cq).state = .active)
    ∧ (fields (run (.listFetchDone 0 (.data (eightWaits 7))) (fetching 8 none))).map (fun x => (x.1, x.2.2.2.1)) = some (0, 2)
    ∧ (fields (run (.listFetchDone 0 (.data (eightWaits 7))) (fetching 8 (some gate)))).map (fun x => (x.1, x.2.2.2.1))
        = some (0, 3)
    ∧ (fields (run (.listFetchDone 0 (.data (eightWaits 8))) (fetching 8 none))).map (fun x => (x.1, x.2.1)) = some (3, 8) := by
  decide +kernel

/-- A CANCEL, QUERY or CANCEL ALL of ring 1 with slot 5 in a state. -/
def found (e : Entry) (st : SlotState) (period : Nat) : State := (tenant e).setSlot 5 (action st period [.wait 8])

def cancelEntry (tag : Nat) : Entry := bytes 1024 [(0, 2), (4, tag)]

theorem witness_CancelByStateFound :
    let s := fun st period => found (cancelEntry 20) st period
    TenantWaits (s .armed 0) 0 .cancel 1 (cancelEntry 20) ∧ TenantWaits (s .firing 1000) 0 .cancel 1 (cancelEntry 20)
    ∧ (s .armed 0).tagLookup 1 20 = some (5, action .armed 0 [.wait 8]) ∧ (s .armed 0).tagLookup 1 21 = none
    ∧ (fields (run (.cancel 0) (s .armed 0))).map (·.1) = some 0
    ∧ (fields (run (.cancel 0) (s .staged 1000))).map (·.1) = some 0x10
    ∧ (fields (run (.cancel 0) (s .firing 0))).map (·.1) = some 0xF := by decide +kernel

theorem witness_CancelAllSweepsTheRing :
    let s := found (bytes 1024 [(0, 3)]) .staged 1000
    TenantWaits s 0 .cancelAll 1 (bytes 1024 [(0, 3)]) ∧ StoreLaw s := by decide +kernel

/-- An AMEND of tag 20 that carries a tolerance and, if asked, a period. -/
def amendEntry (mode due periodPresent period : Nat) : Entry :=
  bytes 1024 [(0, 4), (1, mode), (2, 1), (3, periodPresent), (4, 20), (8, due), (16, 65535), (24, period)]

theorem witness_AmendMovesAnArmedAction :
    TenantWaits (found (amendEntry 1 5 1 1000) .armed 1000) 0 .amend 1 (amendEntry 1 5 1 1000)
    ∧ (amendFieldsOf (amendEntry 1 5 1 1000)).shapeOk = true ∧ (amendFieldsOf (amendEntry 3 5 1 1000)).shapeOk = false
    ∧ (amendFieldsOf (amendEntry 1 5 1 999)).shapeOk = false
    ∧ (fields (run (.amend 0) (found (amendEntry 1 5 1 1000) .armed 1000))).map (·.1) = some 0
    ∧ (fields (run (.amend 0) (found (amendEntry 1 5 1 1000) .armed 0))).map (·.1) = some 3
    ∧ (fields (run (.amend 0) (found (amendEntry 1 (2 ^ 63) 0 0) .armed 0))).map (·.1) = some 4
    ∧ (fields (run (.amend 0) (found (amendEntry 1 5 1 1000) .staged 1000))).map (·.1) = some 0xF
    ∧ (fields (run (.amend 0) (found (amendEntry 1 5 0 0) .awaiting 0))).map (·.1) = some 9
    ∧ (fields (run (.amend 0) (tenant (amendEntry 1 5 0 0)))).map (·.1) = some 0xB := by decide +kernel

theorem witness_QueryReportsTheSlot :
    let e := bytes 1024 [(0, 5), (4, 20)]
    TenantWaits (found e .armed 0) 0 .query 1 e ∧ fields (run (.query 0) (found e .armed 0)) = some (0, 2, 1, 0, 1000000, 1000000)
      ∧ (fields (run (.query 0) (tenant e))).map (·.1) = some 0xB := by decide +kernel

/-- A SET TENANT LIMITS with one slot held by tenant 3. -/
def limits (n quota : Nat) : Entry := bytes 1024 [(0, 0x46), (1, n), (8, quota)]

theorem witness_SetTenantLimitsChecksHoldings :
    let s := fun n quota => (admin (limits n quota)).setSlot 5 (action .armed 0 [])
    (∀ p ∈ [(0, 5), (16, 5), (3, 1025), (3, 1024), (3, 1), (3, 0)],
      AdminWaits (s p.1 p.2) 0 .setTenantLimits (limits p.1 p.2) ∧ bytesOf (limits p.1 p.2) 1 1 = p.1
        ∧ bytesOf (limits p.1 p.2) 8 2 = p.2 ∧ (s p.1 p.2).holdings 3 = 1) := by decide +kernel

/-- A part with a STAGE waiting and an action to stage. -/
def staging : State := { armed 0 with pending := [.stage] }

theorem witness_StoreLawIsKept : StoreLaw staging ∧ step staging = .next (run .stage (armed 0)) :=
  ⟨by decide +kernel, rfl⟩

theorem witness_PlacementLawIsKept : StoreLaw staging ∧ PlacementLaw staging ∧ step staging = .next (run .stage (armed 0))
    ∧ ((run .stage (armed 0)).engine 0).state = .bound := ⟨by decide +kernel, by decide +kernel, rfl, by decide +kernel⟩

theorem witness_OrderLawIsKept : OrderLaw staging ∧ step staging = .next (run .stage (armed 0)) :=
  ⟨by decide +kernel, rfl⟩

theorem witness_LineAndParameterLawsAreKept : OutputLaw staging ∧ ParameterLaw staging
    ∧ OutputLaw { part.setOutput 3 { owner := some 15, safe := .high, level := .high } with
        hp := { part.hp with condition := .fatal } }
    ∧ step staging = .next (run .stage (armed 0)) := ⟨by decide +kernel, by decide +kernel, by decide +kernel, rfl⟩

theorem witness_RegisterWindowWrites : ((0x3C : BitVec 12).toNat % 8 ≠ 0) ∧ ((0x3E : BitVec 12).toNat % 4 ≠ 0)
    ∧ 64 ≤ (0x40 : BitVec 12).toNat ∧ (run (.registerWrite 0x24 .dword 5) part).hp.adminCq = 0x500104007 := by
  decide +kernel

/-! ## Witnesses: dispatch, firing and the operation path -/

theorem witness_StageBindsTheHead :
    (
      let s := armed 0
      s.dsp.schedule = [{ slot := 5, time := 1000000, seq := 2 }] ∧ (s.slot? 5).map Slot.state = some .armed
        ∧ 1000000 ≤ s.tb.value + 1000 * s.dsp.lead ∧ s.dsp.hold = false ∧ Lives s ∧ (s.engine 0).state = .idle
        ∧ (run .stage s).dsp.schedule = [])
    ∧ (let s := { armed 0 with ast := ActionStore.reset }
      s.slot? 5 = none ∧ (run .stage s).dsp.schedule = [])
    ∧ part.dsp.schedule = [] ∧ ¬ Lives (inCondition .fatal)
    ∧ (let s := { armed 0 with tb := { part.tb with value := 979999 } }
      s.tb.value + 1000 * s.dsp.lead < 1000000) := by decide +kernel

theorem witness_StartBeginsAnInstance :
    (∀ p ∈ [(990000, LatePolicy.skip), (989999, .skip), (989999, .abort), (989999, .fire)],
      let s := bound p.1 p.2
      (s.engine 1).state = .bound ∧ (s.engine 1).fresh = false ∧ (s.engine 1).due ≤ s.tb.value ∧ Lives s
        ∧ (s.slot? (s.engine 1).slot).map Slot.latePolicy = some p.2)
    ∧ (part.tb.value : Nat) < 1000001 ∧ ((bound 1000001 .fire).engine 1).due = 1000001
    ∧ decide (990000 + 1000 * 10 < part.tb.value) = false ∧ decide (989999 + 1000 * 10 < part.tb.value) = true := by
  decide +kernel

theorem witness_BudgetStopsAnInstance :
    ∀ p ∈ [Phase.readWait, .lineWait, .waiting, .pollGap, .writeWait],
      let s := running [.wait 8] { OpPath.reset with phase := p } none
      (s.engine 1).state = .running ∧ (s.engine 1).stop = none ∧ Lives s ∧ (s.engine 1).path.phase = p
        ∧ (s.engine 1).runTime < (s.engine 1).budget
        ∧ (let t := s.setEngine 1 { s.engine 1 with runTime := 10000000 }
          (t.engine 1).budget ≤ (t.engine 1).runTime) := by decide +kernel

theorem witness_StepEventUnbinds :
    let s := { bound 1020001 .fire with
      dsp := { (bound 1020001 .fire).dsp with steps := [{ kind := .step, before := 2000000, after := 1000000 }] } }
    (s.dsp.steps = [{ kind := .step, before := 2000000, after := 1000000 }] ∧ Lives s ∧ StoreLaw s ∧ PlacementLaw s
      ∧ (s.engine 1).state = .bound ∧ s.tb.value + 1000 * s.dsp.lead < (s.engine 1).due
      ∧ (s.slot? (s.engine 1).slot).isSome = true)
    ∧ ¬ Lives { s with hp := { s.hp with condition := .teardown } } ∧ part.dsp.steps = [] := by decide +kernel

theorem witness_InstanceEndReportsAndReArms :
    (∀ period ∈ [0, 1000],
      let s := (running [.wait 8] OpPath.reset none).setSlot 5 (action .firing period [.wait 8])
      Lives s ∧ s.slot? (s.engine 1).slot = some (action .firing period [.wait 8]) ∧ (s.sq 1).state ≠ .deleting
        ∧ (s.cq (s.sq 1).cq).state = .active ∧ (s.cq (s.sq 1).cq).outbox = [] ∧ 1 ≤ (s.cq (s.sq 1).cq).room)
    ∧ (action .firing 1000 []).count = 0 ∧ (action .firing 1000 []).endRequested = false
    ∧ (action .firing 1000 []).completionMode = .every
    ∧ 1000000 + nextStep 1000000 1000 part.tb.value * 1000 ≤ 2 ^ 63 - 1 := by decide +kernel

/-- A SET DISPATCH entry. -/
def dispatchEntry (lead budget : Nat) : Entry := bytes 1024 [(0, 0x50), (8, lead), (10, budget)]

theorem witness_DispatchCommands :
    AdminWaits (admin (bytes 1024 [(0, 0x51)])) 0 .holdDispatch (bytes 1024 [(0, 0x51)])
    ∧ AdminWaits (admin (bytes 1024 [(0, 0x52)])) 0 .resumeDispatch (bytes 1024 [(0, 0x52)])
    ∧ (∀ p ∈ [(2, 1), (1000, 1000), (1, 1), (1001, 1000), (2, 0), (2, 1001)],
        AdminWaits (admin (dispatchEntry p.1 p.2)) 0 .setDispatch (dispatchEntry p.1 p.2)
        ∧ bytesOf (dispatchEntry p.1 p.2) 8 2 = p.1 ∧ bytesOf (dispatchEntry p.1 p.2) 10 2 = p.2) := by decide +kernel

theorem witness_OperationsAreBegunInOrder :
    (LinkTakes { part with wtb := granted } ∧ permitted granted 3 .write 0x8000FFFC 4 = true
      ∧ permitted granted 3 .write 0x80010000 4 = false ∧ permitted granted 3 .read 0x80000000 8 = true
      ∧ permitted granted 4 .read 0x80000000 8 = false)
    ∧ (let s := { part with hp := { part.hp with credits := 0 } }
      s.hp.busMaster = true ∧ ¬ LinkTakes s) := by decide +kernel

theorem witness_ReadsReturn :
    (∀ k ∈ [none, some Stop.budget, some Stop.teardown],
      let s := running [.read .w32 0x80000000] (reading 0 0) k
      InProgress s 1 (action .firing 0 [.read .w32 0x80000000]) (.read .w32 0x80000000) .readWait
        ∧ (s.engine 1).path.onLink = true ∧ (s.engine 1).stop = k)
    ∧ (let o := Op.maskedWrite .w32 0x80000000 0x50 0xF0
      let s := { running [o] (reading 0 0) none with wtb := granted }
      InProgress s 1 (action .firing 0 [o]) o .readWait ∧ (s.engine 1).path.onLink = true ∧ LinkTakes s
        ∧ permitted s.wtb 3 .write 0x80000000 4 = true) := by decide +kernel

theorem witness_PollReadsUntilItMatches :
    (
      let o := Op.poll .w32 0x80000000 1 1 5000
      ∀ n ∈ [4999, 5000], InProgress (running [o] (reading 0 n) none) 1 (action .firing 0 [o]) o .readWait
        ∧ ((running [o] (reading 0 n) none).engine 1).path.onLink = true
        ∧ Width.w32.fit 3 &&& 1 = (1 : Word64) &&& 1 ∧ Width.w32.fit 2 &&& 1 ≠ (1 : Word64) &&& 1)
    ∧ (let o := Op.poll .w32 0x80000000 1 1 5000
      ∀ p ∈ [(999, 4999), (1000, 4999), (1000, 5000)],
        let s := { running [o] { OpPath.reset with phase := .pollGap, pollSpacingTimer := p.1, pollLimitTimer := p.2 } none with
          wtb := granted }
        InProgress s 1 (action .firing 0 [o]) o .pollGap ∧ s.hp.busMaster = true
          ∧ permitted s.wtb 3 .read 0x80000000 4 = true ∧ permitted part.wtb 3 .read 0x80000000 4 = false) := by
  decide +kernel

theorem witness_ReadsFail :
    let o := Op.read .w64 0x80000000
    ∀ n ∈ [99999, 100000], ∀ k ∈ [none, some Stop.budget],
      InProgress (running [o] (reading n 0) k) 1 (action .firing 0 [o]) o .readWait
        ∧ ((running [o] (reading n 0) k).engine 1).stop = k
        ∧ ((running [o] (reading n 0) k).engine 1).path.onLink = true := by decide +kernel

theorem witness_WaitsEnd :
    (∀ o ∈ [Op.write .w32 0x80000000 5, .stamp 0x80000000, .maskedWrite .w32 0x80000000 0x50 0xF0],
      let s := { running [o] { OpPath.reset with phase := .writeWait } none with
        hp := { part.hp with posted := [.op 1] }, wtb := granted }
      InProgress s 1 (action .firing 0 [o]) o .writeWait ∧ s.hp.posted = .op 1 :: []
        ∧ (s.engine 1).due ≤ s.tb.value
        ∧ permitted s.wtb 3 .write 0x80000000 8 = true ∧ permitted part.wtb 3 .write 0x80000000 8 = false)
    ∧ (∀ n ∈ [7, 8],
      InProgress (running [.wait 8] { OpPath.reset with phase := .waiting, waitTimer := n } none) 1
        (action .firing 0 [.wait 8]) (.wait 8) .waiting) := by decide +kernel

/-- The writes of engines that have been placed on the link. -/
def opWrites (s : State) : Nat := s.hp.bus.countP (fun b => match b with
  | .opWrite _ _ _ _ => true
  | _ => false)

/-- R72, R91: a backward step has brought the timebase 1 ns below the due time of an instance whose first operation waits for
the link. A WRITE or STAMP is not issued, and is at the due time; a MASKED_WRITE, issued with its read, goes on. -/
theorem witness_WaitsEnd_held :
    ∀ p ∈ [(Op.write .w32 0x80000000 5, 0), (.stamp 0x80000000, 0), (.maskedWrite .w32 0x80000000 0x50 0xF0, 1)],
      let s := { running [p.1] { OpPath.reset with phase := .writeWait } none with
        hp := { part.hp with posted := [.op 1] }, wtb := granted }
      let u := { s with tb := { s.tb with value := (s.engine 1).due - 1 } }
      InProgress u 1 (action .firing 0 [p.1]) p.1 .writeWait ∧ u.hp.busMaster = true ∧ (u.engine 1).operation = 1
        ∧ u.tb.value < (u.engine 1).due ∧ opWrites (run (.writeAcceptedByLink 1) u) = opWrites u + p.2
        ∧ opWrites (run (.writeAcceptedByLink 1) { u with tb := { u.tb with value := (s.engine 1).due } })
            = opWrites u + 1 := by decide +kernel

theorem witness_LineRequestNeedsTheOwner :
    ∀ k ∈ [none, some Stop.budget, some Stop.teardown, some Stop.fatal],
      let s := running [.line 2 .high] { OpPath.reset with phase := .lineWait } k
      InProgress s 1 (action .firing 0 [.line 2 .high]) (.line 2 .high) .lineWait ∧ Lives s
        ∧ (s.output 2).owner ≠ some 3
        ∧ ((s.setOutput 2 { owner := some 3, safe := .low, level := .low }).output 2).owner = some 3
        ∧ ¬ Lives { s with hp := { s.hp with condition := .fatal } } := by decide +kernel

/-! ## Witnesses: lines and gates -/

theorem witness_InputEdges :
    (∀ n ∈ [998001, 998000, 1000001], Lives (spaced n 65535) ∧ ((spaced n 65535).input 1).enabled = true
      ∧ ((spaced n 65535).input 1).sampled = false ∧ ((spaced n 65535).input 1).level ≠ some (edgeLevel .fall)
      ∧ ((spaced n 65535).input 1).lastEdge = some n)
    ∧ part.tb.value - 998001 < 2000 ∧ 2000 ≤ part.tb.value - 998000 ∧ part.tb.value < 1000001
    ∧ (let s := gated .listening gate 1500000
      5 ∈ s.lnu.listen[0] ∧ (s.slot? 5).map Slot.gate = some (some gate) ∧ gate.openTime ≤ s.tb.value
        ∧ s.tb.value ≤ gate.closeTime)
    ∧ (part.input 1).enabled = false := by decide +kernel

theorem witness_GatesOpenAndClose :
    (
      let s := gated .awaiting gate 1000000
      Lives s ∧ s.lnu.calendar = [{ slot := 5, time := 1000000, seq := 2 }] ∧ 1000000 ≤ s.tb.value
        ∧ s.slot? 5 = some { action .awaiting 0 [.wait 8] with gate := some gate })
    ∧ (∀ p ∈ [ClosePolicy.fail, .fireAtClose],
      let g := { gate with closePolicy := p, closeTime := 1000000 }
      let s := gated .listening g 1000000
      s.slot? 5 = some { action .listening 0 [.wait 8] with gate := some g } ∧ (s.sq 1).state ≠ .deleting
        ∧ (s.cq (s.sq 1).cq).state = .active ∧ (s.cq (s.sq 1).cq).outbox = [] ∧ 1 ≤ (s.cq (s.sq 1).cq).room) := by
  decide +kernel

theorem witness_StepEventSweepsTheCalendar :
    let s := gated .awaiting gate 1000000
    let t := { s with lnu := { s.lnu with steps := [{ kind := .set, before := 5, after := 1000000 }] } }
    t.lnu.steps = [{ kind := .set, before := 5, after := 1000000 }] ∧ Lives t
      ∧ ((run .lnuStepEvent t).slot? 5).map Slot.state = some .listening
      ∧ ¬ Lives { t with hp := { t.hp with condition := .teardown } } ∧ part.lnu.steps = [] := by decide +kernel

theorem witness_OutputLineCommands :
    (∀ p ∈ [(0, 3, 1), (5, 3, 1), (4, 0, 1), (4, 16, 1), (4, 15, 0), (4, 15, 3), (4, 1, 1), (4, 15, 2)],
      let e := bytes 1024 [(0, 0x4A), (1, p.1), (2, p.2.1), (3, p.2.2)]
      AdminWaits (admin e) 0 .grantLine e ∧ bytesOf e 1 1 = p.1 ∧ bytesOf e 2 1 = p.2.1 ∧ bytesOf e 3 1 = p.2.2)
    ∧ (∀ n ∈ [0, 1, 4, 5],
      let e := bytes 1024 [(0, 0x4B), (1, n)]
      AdminWaits (admin e) 0 .revokeLine e ∧ bytesOf e 1 1 = n)
    ∧ (part.output 3).owner = none
    ∧ ((part.setOutput 3 { owner := some 2, safe := .low, level := .high }).output 3).owner.isSome = true := by
  decide +kernel

theorem witness_ConfigureInputLineChecks :
    ∀ p ∈ [(4, 1, 3, 1, 0), (3, 2, 3, 1, 0), (3, 1, 4, 1, 0), (3, 1, 3, 1, 1000001), (3, 1, 0, 1, 0), (3, 1, 3, 16, 0),
        (3, 1, 1, 15, 1000000), (3, 1, 3, 1, 1000000), (3, 0, 0, 0, 0)],
      let e := bytes 1024 [(0, 0x49), (1, p.1), (2, p.2.1), (3, p.2.2.1), (4, p.2.2.2.1), (8, p.2.2.2.2)]
      AdminWaits (admin e) 0 .configureInput e ∧ bytesOf e 1 1 = p.1 ∧ bytesOf e 2 1 = p.2.1 ∧ bytesOf e 3 1 = p.2.2.1
        ∧ bytesOf e 4 1 = p.2.2.2.1 ∧ bytesOf e 8 4 = p.2.2.2.2 ∧ (part.cq 15).state ≠ .active
        ∧ (part.cq 1).state = .active := by decide +kernel

/-! ## Witnesses: rings, completions and the host port -/

theorem witness_PostSetsTheTail :
    (
      let d : Word64 := 0x1001F
      (d.extractLsb' 20 44 = 0) ∧ (d.extractLsb' 0 16).toNat < (part.sq 1).size ∧ (part.sq 1).state = .active
        ∧ (1 : Fin 16).val = (d.extractLsb' 16 4).toNat ∧ part.hp.condition = .ready)
    ∧ (let d : Word64 := 0x10020
      (part.sq 1).size ≤ (d.extractLsb' 0 16).toNat)
    ∧ ((0x100005 : Word64).extractLsb' 20 44 ≠ 0) ∧ (part.sq 2).state = .absent
    ∧ (inCondition .off).hp.condition ≠ .ready := by decide +kernel

theorem witness_ArbiterGrants :
    (
      let s := part.setSq 0 { part.sq 0 with tail := 1, inFlight := false }
      s.eligible 0 = true)
    ∧ (let s := rings 1 0 0 8
      s.eligible 0 = false ∧ s.eligible 1 = true ∧ 1 ≤ (s.sq 1).credit ∧ s.rqe.pointer = 8
        ∧ ∀ k : Fin 16, k ≠ 0 → s.eligible k = true → 1 ≤ (s.sq k).credit →
          ((1 : Fin 16).val + 15 - s.rqe.pointer) % 15 ≤ (k.val + 15 - s.rqe.pointer) % 15)
    ∧ (let s := rings 0 0 0 2
      s.eligible 0 = false ∧ s.eligible 3 = true ∧ s.rqe.pointer = 2
        ∧ ∀ k : Fin 16, k ≠ 0 → s.eligible k = true → (s.sq k).credit = 0 ∧ 1 ≤ (s.sq k).weight
          ∧ ((3 : Fin 16).val + 15 - s.rqe.pointer) % 15 ≤ (k.val + 15 - s.rqe.pointer) % 15)
    ∧ (∀ r, part.eligible r = false) := by decide +kernel

theorem witness_EntriesAreTaken :
    (
      let s := part.setCtx 0 (.fetch 1 1 0 true)
      s.hp.condition = .ready ∧ s.ctx 0 = .fetch 1 1 0 true ∧ (s.sq 1).state ≠ .deleting
        ∧ (s.cq (s.sq 1).cq).state = .active)
    ∧ entryRefusal 1 armEntry = none ∧ entryRefusal 0 armEntry = some .notPermitted
    ∧ entryRefusal 1 (bytes 1024 [(0, 6)]) = some .malformed
    ∧ entryRefusal 0 (bytes 1024 [(0, 1), (63, 1)]) = some .malformed
    ∧ entryRefusal 1 (bytes 1024 [(0, 0x52)]) = some .notPermitted := by decide +kernel

theorem witness_FetchesFail :
    ∀ n ∈ [99999, 100000],
      let s := part.setCtx 0 (.fetch 1 1 n true)
      s.hp.condition = .ready ∧ s.ctx 0 = .fetch 1 1 n true ∧ (s.sq 1).state = .active ∧ (s.cq (s.sq 1).cq).outbox = []
        ∧ (s.cq 0).state = .active ∧ (s.cq 0).outbox = [] ∧ 1 ≤ (s.cq 0).room
        ∧ (let t := part.setCtx 0 (.fetch 0 0 n true)
          t.ctx 0 = .fetch 0 0 n true ∧ (t.sq 0).state = .active) := by decide +kernel

theorem witness_SubmissionRingCommands :
    (∀ p ∈ [(16, 3, 1, 4, 32), (0, 3, 1, 4, 32), (1, 3, 1, 4, 32), (15, 3, 2, 4, 32), (15, 0, 1, 4, 32), (15, 16, 1, 4, 32),
        (15, 15, 1, 0, 32), (15, 15, 1, 9, 32), (15, 15, 1, 8, 4), (15, 15, 1, 8, 4096), (2, 1, 1, 1, 8)],
      let e := bytes 1024 [(0, 0x41), (1, p.1), (2, p.2.1), (3, p.2.2.1), (4, p.2.2.2.1), (8, 0x1000), (16, p.2.2.2.2)]
      AdminWaits (admin e) 0 .createSq e ∧ bytesOf e 1 1 = p.1 ∧ bytesOf e 2 1 = p.2.1 ∧ bytesOf e 3 1 = p.2.2.1
        ∧ bytesOf e 4 1 = p.2.2.2.1 ∧ bytesOf e 16 2 = p.2.2.2.2)
    ∧ (∀ n ∈ [0, 1, 2, 15, 16],
      let e := bytes 1024 [(0, 0x42), (1, n)]
      AdminWaits (admin e) 0 .deleteSq e ∧ bytesOf e 1 1 = n)
    ∧ (part.sq 1).state = .active ∧ (part.sq 1).inFlight = true ∧ (part.sq 15).state = .absent
    ∧ ((part.setSq 1 { ring1 with inFlight := false }).sq 1).inFlight = false
    ∧ ((part.setSq 1 { ring1 with state := .deleting }).sq 1).state = .deleting := by decide +kernel

theorem witness_ReleaseFreesEntries :
    (
      let s := small 8 0 [fire 2] 0 0 false
      ((0x30003 : Word64).extractLsb' 20 44 = 0) ∧ (s.cq 3).state = .active ∧ 3 < (s.cq 3).size
        ∧ (3 + (s.cq 3).size - (s.cq 3).consumer) % (s.cq 3).size ≤ (s.cq 3).unreleased)
    ∧ (let s := part.setCq 3 { ring1Cq with size := 8, state := .faulted, unreleased := 7 }
      (s.cq 3).state = .faulted ∧ (7 + (s.cq 3).size - (s.cq 3).consumer) % (s.cq 3).size ≤ (s.cq 3).unreleased)
    ∧ (let s := small 2 2 [] 0 0 true
      (s.cq 3).unreleased < (3 + (s.cq 3).size - (s.cq 3).consumer) % (s.cq 3).size)
    ∧ (part.cq 2).state = .absent ∧ (inCondition .fatal).hp.condition ≠ .ready := by decide +kernel

theorem witness_CompletionsAreWrittenHeldOrLost :
    (
      let s := small 6 6 [] 1 0 true
      Lives s ∧ (s.cq 3).state = .active ∧ (s.cq 3).outbox = [] ∧ (s.cq 3).room = 1)
    ∧ (let s := small 7 7 [] 1 0 true
      (s.cq 3).room = 0 ∧ s.poolUsed < 64)
    ∧ (let s := small 7 7 (List.replicate 64 (fire 2)) 1 0 true
      (s.cq 3).outbox ≠ [] ∧ 64 ≤ s.poolUsed)
    ∧ ((part.setCq 3 { ring1Cq with state := .faulted }).cq 3).state = .faulted ∧ (part.cq 2).state = .absent
    ∧ ¬ Lives (inCondition .fatal) := by decide +kernel

theorem witness_WaitingWritesAndHoldTimers :
    (
      let s := { part with hp := { part.hp with posted := [.cu (.notify 5 0x5000 7) false] } }
      s.hp.posted = .cu (.notify 5 0x5000 7) false :: [] ∧ s.hp.busMaster = true)
    ∧ (∀ n ∈ [49999, 50000],
      let s := coalescing 1 n
      s.hp.condition = .ready ∧ (s.cq 5).state = .active ∧ (s.cq 5).holdTimer = some n ∧ (s.cq 5).notify = .armed
        ∧ (s.cq 5).notifyAddr ≠ 0 ∧ 1 ≤ (s.cq 5).pending ∧ 1000 * (s.cq 5).hold = 50000) := by decide +kernel

/-- A refused write of a ring, with a write of the same ring behind it. -/
def failing (c : Condition) (q : Fin 16) : State :=
  { inCondition c with hp := { (inCondition c).hp with
      posted := [.cu (.notify q 0x5000 7) true, .cu (.entry q 0x200000 0) false] } }

theorem witness_CompletionWritesFail :
    (∀ c ∈ [Condition.ready, .teardown], ∀ q ∈ [(0 : Fin 16), 1],
      (failing c q).hp.posted = .cu (.notify q 0x5000 7) true :: [.cu (.entry q 0x200000 0) false]
        ∧ (failing c q).hp.condition = c ∧ ((failing c q).cq q).state = .active ∧ (CuWrite.notify q 0x5000 7).ring = q)
    ∧ ((bound 5 .fire).engine 1).state = .bound ∧ ((bound 5 .fire).engine 0).state = .idle
    ∧ (∀ p ∈ [Phase.readWait, .lineWait, .writeWait, .waiting, .pollGap],
      ((running [.wait 8] { OpPath.reset with phase := p } none).engine 1).path.phase = p)
    ∧ (run .completionWriteFailed (failing .ready 1)).hp.bus.length = 1
    ∧ ((run .completionWriteFailed (failing .ready 1)).cq 1).lost = 1 := by decide +kernel

theorem witness_CompletionRingCommands :
    (∀ p ∈ [(16, 64, 8, 0, 0), (0, 64, 8, 0, 0), (1, 64, 8, 0, 0), (15, 4, 8, 0, 0), (15, 8192, 8, 0, 0), (15, 8, 0, 0, 0),
        (15, 8, 65, 0, 0), (15, 8, 1, 2, 0), (15, 8, 1, 0, 1), (15, 4096, 64, 4, 1), (2, 8, 1, 0, 0)],
      let e := bytes 1024 [(0, 0x43), (1, p.1), (8, 0x1000), (16, p.2.1), (20, p.2.2.1), (24, p.2.2.2.1), (32, p.2.2.2.2)]
      AdminWaits (admin e) 0 .createCq e ∧ bytesOf e 1 1 = p.1 ∧ bytesOf e 16 2 = p.2.1 ∧ bytesOf e 20 1 = p.2.2.1
        ∧ (e.extractLsb' 192 64).toNat = p.2.2.2.1 ∧ (e.extractLsb' 256 32).toNat = p.2.2.2.2)
    ∧ (∀ p ∈ [(16, 1), (15, 1), (1, 0), (1, 64), (0, 1)],
      let e := bytes 1024 [(0, 0x44), (1, p.1), (20, p.2)]
      AdminWaits (admin e) 0 .tuneCq e ∧ bytesOf e 1 1 = p.1 ∧ (notifyFieldsOf e).ok = decide (1 ≤ p.2)) := by
  decide +kernel

theorem witness_CompletionRingCommands_delete :
    (∀ n ∈ [0, 1, 2, 15, 16],
      let e := bytes 1024 [(0, 0x45), (1, n)]
      AdminWaits (admin e) 0 .deleteCq e ∧ bytesOf e 1 1 = n)
    ∧ (part.sq 1).cq = 1 ∧ (part.cq 15).state = .absent
    ∧ ((part.setCq 3 ring1Cq).cq 3).state = .active
    ∧ (∀ n, (part.sq n).state ≠ .absent → (part.sq n).cq ≠ 3) ∧ (∀ l, (part.input l).reportRing ≠ some 3)
    ∧ ((part.setCq 1 { ring1Cq with state := .faulted }).cq 1).state = .faulted := by decide +kernel

theorem witness_CompletionLawIsKept :
    let s := tenant armEntry |>.setCtx 1 (.effect 0 0 (limits 3 5) .waiting)
    CompletionLaw { s with pending := [.setTenantLimits 1] } ∧ (run (.setTenantLimits 1) s).ctx 1 = .free := by
  decide +kernel

theorem witness_EnableBuildsTheRings :
    (
      let h := { HostPort.reset with adminSq := 0xFFFFFFFFFFFFF003, adminCq := 0x10400C }
      h.condition = .off ∧ h.enable = false ∧ adminValid h.adminSq = true ∧ adminValid h.adminCq = true)
    ∧ adminValid 0x100002 = false ∧ adminValid 0x10000D = false ∧ adminValid 0x100013 = false
    ∧ part.hp.condition ≠ .teardown ∧ part.hp.enable = true
    ∧ (inCondition .teardown).hp.condition = .teardown := by decide +kernel

theorem witness_TeardownEmptiesThePart :
    part.hp.condition = .ready ∧ (inCondition .fatal).hp.condition = .fatal
    ∧ ((inCondition .off).hp.condition = .off ∧ (inCondition .off).hp.enable = true)
    ∧ (State.reset.hp.condition = .off ∧ State.reset.hp.enable = false)
    ∧ (let s := inCondition .teardown
      s.hp.condition = .teardown ∧ (∀ e, (s.engine e).state = .idle ∧ (s.engine e).path.phase = .idle)
        ∧ s.hp.posted = [] ∧ s.hp.enable = true ∧ adminValid s.hp.adminSq = true ∧ adminValid s.hp.adminCq = true
        ∧ (run .teardown s).hp.enable = false)
    ∧ (let s := running [.wait 8] (reading 0 0) (some .teardown)
      ∃ e, (s.engine e).state ≠ .idle) := by decide +kernel

theorem witness_IdentifyWritesTheRecord :
    (∀ a ∈ [0, 32, 64],
      let e := bytes 1024 [(0, 0x40), (8, a)]
      AdminWaits (admin e) 0 .identify e ∧ (e.extractLsb' 64 64).toNat = a)
    ∧ (∀ b ∈ [true, false],
      let e := bytes 1024 [(0, 0x40), (8, 64)]
      let s := { part.setCtx 0 (.effect 0 0 e (.identity 900000)) with
        hp := { part.hp with posted := [.identity 0 64 false], busMaster := b } }
      s.hp.condition = .ready ∧ s.ctx 0 = .effect 0 0 e (.identity 900000) ∧ s.hp.posted = .identity 0 64 false :: []
        ∧ (s.sq 0).state = .active ∧ (s.cq (s.sq 0).cq).state = .active) := by decide +kernel

/-! ## Witnesses: the further clauses of the statements above -/

/-- Ring 1 is being deleted. -/
def deleting (s : State) : State := s.setSq 1 { s.sq 1 with state := .deleting }

/-- The bus master enable is clear. -/
def noMaster (s : State) : State := { s with hp := { s.hp with busMaster := false } }

/-- The link has no credit left. -/
def noCredit (s : State) : State := { s with hp := { s.hp with credits := 0 } }

theorem witness_ElapsedTimeCountsPeriods_poll :
    let o := Op.poll .w32 0x80000000 1 1 5000
    let s := atTime 0 .running (.timed 5 8) (running [o] (reading 8 4992) none)
    InProgress s 1 (action .firing 0 [o]) o .readWait ∧ s.tb.slew = .timed 5 8
      ∧ ((run (.timebaseAdvance 0) s).engine 1).path.pollLimitTimer = 5000
      ∧ (run (.timebaseAdvance 0) s).tb.slew = .timed 5 0 := by decide +kernel

theorem witness_ArmTakesASlot_request :
    (tenant listArm).ctx 0 = .effect 1 0 listArm .waiting
      ∧ (run (.arm 0) (tenant listArm)).ctx 0 = .effect 1 0 listArm (.listFetch 0 1000000 0 true) := by decide +kernel

theorem witness_ArmRefusedInOrder_deleting :
    let s := deleting (tenant armEntry)
    s.hp.condition = .ready ∧ (s.ctx 0).request? = some (1, armEntry, .waiting) ∧ reqKindOf (kindCode armEntry) = some .arm
      ∧ (s.sq 1).state = .deleting ∧ (s.cq (s.sq 1).cq).state = .active ∧ ((run (.arm 0) s).sq 1).state = .absent
      ∧ ((run (.arm 0) (s.setSlot 5 (action .firing 0 []))).sq 1).state = .deleting := by decide +kernel

theorem witness_ListFetchEnds_deleting :
    ∀ n ∈ [99999, 100000],
      let s := deleting (fetching n none)
      (s.sq 1).state = .deleting ∧ s.ctx 0 = .effect 1 0 listArm (.listFetch 5 1000000 n true)
        ∧ (s.slot? 5).isSome = true ∧ (s.cq (s.sq 1).cq).state = .active
        ∧ ((run (.listFetchDone 0 (.data (eightWaits 7))) s).sq 1).state = .absent := by decide +kernel

theorem witness_ListFetchEnds_answered :
    let s := (fetching 0 none).setCtx 0 (.effect 1 0 listArm (.listFetch 5 1000000 0 false))
    s.ctx 0 = .effect 1 0 listArm (.listFetch 5 1000000 0 false)
      ∧ (fields (run (.listFetchDone 0 .failed) s)).map (·.1) = some 0xE := by decide +kernel

/-- Of a LISTENING slot 5 and a STAGED slot 6 of ring 1, CANCEL ALL removes slot 5 alone. -/
theorem witness_CancelAllSweepsTheRing_removed :
    let s := { (gated .listening gate 1500000).setSlot 6 { action .staged 1000 [] with tag := 21 } with
      rqe := (tenant (bytes 1024 [(0, 3)])).rqe }
    TenantWaits s 0 .cancelAll 1 (bytes 1024 [(0, 3)]) ∧ StoreLaw s
      ∧ (∃ removed : Nat → Prop, ∀ id, removed id ↔ ∃ x, s.slot? id = some x ∧ x.ring = 1
          ∧ (x.state = .armed ∨ x.state = .awaiting ∨ x.state = .listening))
      ∧ (run (.cancelAll 0) s).ast.slots.map (fun p => (p.1, p.2.endRequested)) = [(6, true)]
      ∧ (run (.cancelAll 0) s).lnu = { s.lnu with calendar := [], listen := Vector.replicate 4 [] } :=
  ⟨by decide +kernel, by decide +kernel, ⟨_, fun _ => Iff.rfl⟩, by decide +kernel, by decide +kernel⟩

/-- A recurring instance about to end, with a count, instants used, a completion mode and a cancellation mark. -/
def recurring (count used due : Nat) (mode : CompletionMode) (marked late : Bool) : State :=
  let s := running [.wait 8] OpPath.reset none
  (s.setSlot 5 { action .firing 1000 [.wait 8] with
    count := count, used := used, completionMode := mode, endRequested := marked }).setEngine 1
      { s.engine 1 with due := due, late := late }

/-- Status, flags, missed instants and whether the slot is kept, after the end of an instance of engine 1. -/
def ending (s : State) (st : Status) : Option (Nat × Nat) × Bool :=
  let t := s.endInstance 1 st 1
  ((completion t).map (fun p => (bytesOf p.2 1 1, bytesOf p.2 6 2)), (t.slot? 5).isSome)

theorem witness_InstanceEndReportsAndReArms_recurring :
    (∀ s ∈ [recurring 3 2 1000000 .every false false, recurring 3 1 997500 .every false true,
        recurring 0 0 1000000 .every true false, recurring 0 0 (2 ^ 63 - 1000) .every false false,
        recurring 0 0 1000000 .finalAndFaults false true],
      Lives s ∧ (s.slot? (s.engine 1).slot).map Slot.period = some 1000 ∧ (s.sq 1).state ≠ .deleting
        ∧ (s.cq (s.sq 1).cq).state = .active ∧ (s.cq (s.sq 1).cq).outbox = [] ∧ 1 ≤ (s.cq (s.sq 1).cq).room)
    ∧ ending (recurring 3 2 1000000 .every false false) .ok = (some (0, 0), false)
    ∧ ending (recurring 3 1 997500 .every false true) .ok = (some (0, 1), false)
    ∧ ending (recurring 0 0 1000000 .every true false) .ok = (some (0, 0), false)
    ∧ ending (recurring 0 0 1000000 .every false true) .lateAborted = (some (0x26, 0), false)
    ∧ ending (recurring 0 0 1000000 .every false false) .busError = (some (0x22, 0), false)
    ∧ ending (recurring 0 0 (2 ^ 63 - 1000) .every false false) .ok = (some (0, 0), false)
    ∧ ending (recurring 0 0 1000000 .finalAndFaults false true) .ok = (none, true)
    ∧ (((recurring 0 0 1000000 .finalAndFaults false true).endInstance 1 .ok 0).slot? 5).map Slot.lateCarry = some true := by
  decide +kernel

theorem witness_InstanceEndReportsAndReArms_deleting :
    let s := deleting (running [.wait 8] OpPath.reset none)
    Lives s ∧ s.slot? (s.engine 1).slot = some (action .firing 0 [.wait 8]) ∧ (s.sq 1).state = .deleting
      ∧ (s.cq (s.sq 1).cq).state = .active ∧ (s.cq (s.sq 1).cq).outbox = [] ∧ 1 ≤ (s.cq (s.sq 1).cq).room
      ∧ ((s.endInstance 1 .ok 0).sq 1).state = .deleting
      ∧ (((s.setSq 1 { s.sq 1 with inFlight := false }).endInstance 1 .ok 0).sq 1).state = .absent := by decide +kernel

/-- R89: a RESUME binds the eligible head where dispatch was held, and changes nothing where it was not. -/
theorem witness_DispatchCommands_resume :
    ∀ b ∈ [true, false],
      let e := bytes 1024 [(0, 0x52)]
      let s := { armed 0 with rqe := (admin e).rqe, dsp := { (armed 0).dsp with hold := b } }
      AdminWaits s 0 .resumeDispatch e ∧ s.dsp.hold = b
        ∧ ((run (.resumeDispatch 0) s).engine 0).state = (if b then .bound else .idle) := by decide +kernel

/-- A table in which tenant 3 may only write 8000 0000h to 8000 FFFFh. -/
def writeOnly : Vector (Option Window) 32 := State.reset.wtb.set 0 (window .grant 0x80000000 0x10000 0x8 false true)

theorem witness_OperationsAreBegunInOrder_kinds :
    permitted granted 3 .write 0x80000008 8 = true ∧ permitted writeOnly 3 .write 0x80000000 4 = true
      ∧ permitted writeOnly 3 .read 0x80000000 4 = false
      ∧ (noMaster part).hp.busMaster = false ∧ ¬ LinkTakes (noCredit part) ∧ (noCredit part).hp.busMaster = true
      ∧ (∀ o ∈ [Op.read .w32 0x80000000, .poll .w32 0x80000000 1 1 5000, .maskedWrite .w32 0x80000000 5 5],
        (State.runOps 1 3 1 [o] { part with wtb := granted }).hp.bus = [.opRead 1 0x80000000 .w32])
      ∧ (State.runOps 1 3 1 [.stamp 0x80000008, .wait 8] { part with wtb := granted }).hp.bus
          = [.opWrite 1 0x80000008 .w64 1000000]
      ∧ ((State.runOps 1 3 1 [.stamp 0x80000008] (noCredit { part with wtb := granted })).engine 1).path.phase = .writeWait
      := by decide +kernel

theorem witness_ReadsReturn_stopped :
    ∀ k ∈ [Stop.budget, .teardown, .fatal], ∀ o ∈ [Op.read .w32 0x80000000, .maskedWrite .w32 0x80000000 0x50 0xF0],
      let s := running [o] (reading 0 0) (some k)
      InProgress s 1 (action .firing 0 [o]) o .readWait ∧ (s.engine 1).path.onLink = true ∧ (s.engine 1).stop = some k := by
  decide +kernel

theorem witness_ReadsReturn_merge :
    let o := Op.maskedWrite .w32 0x80000000 0x50 0xF0
    let s := { running [o] (reading 0 0) none with wtb := granted }
    InProgress (noMaster s) 1 (action .firing 0 [o]) o .readWait ∧ (noMaster s).hp.busMaster = false
      ∧ InProgress (noCredit s) 1 (action .firing 0 [o]) o .readWait ∧ (noCredit s).hp.busMaster = true
      ∧ ¬ LinkTakes (noCredit s) ∧ permitted part.wtb 3 .write 0x80000000 4 = false
      ∧ (run (.maskedWriteReadReturned 1 0x123456A7) (noMaster s)).hp.bus = [] := by decide +kernel

/-- IN0 reports its edges to ring 1, with one suppressed edge, and slot 5 listens on it. -/
def reporting : State :=
  (gated .listening gate 1500000).setInput 0
    { InputLine.reset with
      enabled := true, report := some .rise, reportRing := some 1, suppressed := 1, level := some .low, sampled := false }

theorem witness_InputEdges_report :
    Lives reporting ∧ (reporting.input 0).enabled = true ∧ (reporting.input 0).sampled = false
      ∧ (reporting.input 0).level ≠ some (edgeLevel .rise) ∧ (reporting.input 0).lastEdge = none
      ∧ (reporting.input 0).report = some .rise ∧ (reporting.input 0).reportRing = some 1
      ∧ EdgeSelect.rise.covers .rise = true ∧ EdgeSelect.rise.covers .fall = false
      ∧ (reporting.cq 1).state = .active ∧ (reporting.cq 1).outbox = [] ∧ 1 ≤ (reporting.cq 1).room
      ∧ fields (run (.inputEdge 0 .rise) reporting) = some (0, 0, 1, 1, 1000000, 1) := by decide +kernel

/-- The predicate of the listeners that qualify exists: here, slot 5 alone. -/
theorem witness_InputEdges_listeners :
    ∃ p : Nat → Bool, ∀ id, p id = true ↔ ∃ x g, reporting.slot? id = some x ∧ x.state = .listening ∧ x.gate = some g
      ∧ (g.edge = .either ∨ (g.edge = .rise ∧ EdgeKind.rise = .rise) ∨ (g.edge = .fall ∧ EdgeKind.rise = .fall))
      ∧ g.openTime ≤ reporting.tb.value ∧ reporting.tb.value ≤ g.closeTime := by
  classical
  exact ⟨fun id => decide _, fun id => decide_eq_true_iff⟩

/-- A step event waits at LNU, the head of the calendar being reached, with a second entry ahead. -/
def swept (st : SlotState) : State :=
  let s := (gated st { gate with closeTime := 1000000 } 1000000).setSlot 6
    { action .awaiting 0 [] with tag := 21, gate := some { gate with openTime := 1000001 } }
  { s with lnu := { s.lnu with
      calendar := s.lnu.calendar ++ [{ slot := 6, time := 1000001, seq := 2 }]
      steps := [{ kind := .set, before := 5, after := 1000000 }] } }

theorem witness_StepEventSweepsTheCalendar_heads :
    (∀ st ∈ [SlotState.awaiting, .listening, .firing],
      (swept st).lnu.steps ≠ [] ∧ Lives (swept st) ∧ ((swept st).slot? 5).map Slot.state = some st
        ∧ ((swept st).slot? 5).map (fun x => x.gate.isSome) = some true
        ∧ (swept st).lnu.calendar.head?.map TimedEntry.time = some 1000000
        ∧ (run .lnuStepEvent (swept st)).lnu.calendar = [{ slot := 6, time := 1000001, seq := 2 }])
    ∧ StoreLaw (swept .awaiting) ∧ PlacementLaw (swept .awaiting) ∧ PlacementLaw (swept .listening)
    ∧ ((run .lnuStepEvent (swept .awaiting)).slot? 5).map (fun x => (x.state, x.due)) = some (.armed, 1000000) := by
  decide +kernel

theorem witness_FetchesFail_deleting :
    ∀ n ∈ [99999, 100000],
      let s := deleting (part.setCtx 0 (.fetch 1 1 n true))
      s.hp.condition = .ready ∧ s.ctx 0 = .fetch 1 1 n true ∧ (s.sq 1).state = .deleting
        ∧ (s.cq (s.sq 1).cq).outbox = [] ∧ 1 ≤ (s.cq 0).room
        ∧ ((run (.entryFetchFailed 0) s).sq 1).state = .absent
        ∧ ((run (.entryFetchFailed 0) (s.setSlot 5 (action .firing 0 []))).sq 1).state = .deleting := by decide +kernel

theorem witness_CompletionsAreWrittenHeldOrLost_request :
    let s := (tenant armEntry).setCq 1 { ring1Cq with state := .faulted, owed := 1, lost := 65535 }
    (s.cq 1).state = .faulted ∧ (s.sq 1).cq = 1 ∧ (s.sq 1).state ≠ .deleting
      ∧ ((s.completeRequest 0 1 { status := .ok, time := 5 }).cq 1).lost = 65535 := by decide +kernel

theorem witness_CompletionWritesFail_notice :
    let s := failing .ready 1
    (s.cq 0).state = .active ∧ (s.cq 0).outbox = [] ∧ 1 ≤ (s.cq 0).room
      ∧ fields (run .completionWriteFailed s) = some (0x44, 0, 0, 2, 1000000, 1) := by decide +kernel

theorem witness_IdentifyWritesTheRecord_request :
    let e := bytes 1024 [(0, 0x40), (8, 64)]
    (admin e).ctx 0 = .effect 0 0 e .waiting
      ∧ (run (.identify 0) (admin e)).hp.posted = [.identity 0 64 false] := by decide +kernel

/-- R130 and log entry 29: no step event outlives the beginning of teardown. -/
theorem test_teardown_discards_step_events :
    let s := { swept .awaiting with dsp := { part.dsp with steps := [{ kind := .set, before := 5, after := 1000000 }] } }
    (run .teardown s).lnu.steps = [] ∧ (run .teardown s).dsp.steps = [] := by decide +kernel

/-- R158: a context in EFFECT keeps the head index that its fetch has read. -/
theorem test_effect_keeps_the_head :
    (run (.entryTaken 0 armEntry) (part.setCtx 0 (.fetch 1 31 8 true))).ctx 0 = .effect 1 31 armEntry .waiting := by
  decide +kernel

/-! ## Witnesses: records, fields and codes (chapter 11) -/

/-- An ARM with these fields, FIRE, END and the others as listed. -/
def armShape (mode due period completions count : Nat) (others : List (Nat × Nat)) : Entry :=
  bytes 1024 ([(0, 1), (1, mode), (2, 1), (3, 1), (8, due), (16, period), (30, completions), (31, count)] ++ others)

/-- Section 11.2.2 and R20 to R32: fields at the ends of their ranges are accepted, and those next to them refused. -/
theorem witness_ArmRefusedInOrder_fields :
    ([armShape 1 (2 ^ 63) 0 1 1 [], armShape 3 999 1000 2 2 [], armShape 2 5 (2 ^ 48) 1 3 [(32, 32)],
        armShape 1 5 0 1 8 [(40, 1), (41, 3), (42, 3), (43, 2), (44, 2 ^ 32 - 1), (48, 2 ^ 40)],
        armShape 1 5 0 1 2 [(40, 1), (42, 1), (43, 1), (48, 1)]].all fun e => (armFieldsOf e).params?.isSome) = true
    ∧ ([armShape 0 5 0 1 1 [], armShape 4 5 0 1 1 [], armShape 3 1000 1000 1 1 [], armShape 3 0 0 1 1 [],
        armShape 1 5 999 1 1 [], armShape 1 5 (2 ^ 48 + 1) 1 1 [], armShape 1 5 0 0 1 [], armShape 1 5 0 3 1 []].all
          fun e => (armFieldsOf e).params?.isNone) = true
    ∧ ([armShape 1 5 0 1 0 [], armShape 1 5 0 1 9 [], armShape 1 5 0 1 3 [(32, 16)], armShape 1 5 0 1 1 [(32, 32)],
        armShape 1 5 0 1 1 [(96, 1)], armShape 1 5 0 1 3 [(64, 1)], armShape 1 5 0 1 1 [(44, 1)],
        armShape 1 5 0 1 1 [(40, 2)]].all fun e => (armFieldsOf e).params?.isNone) = true
    ∧ ([(1000, 0, 1, 1, 1), (0, 4, 1, 1, 1), (0, 0, 0, 1, 1), (0, 0, 4, 1, 1), (0, 0, 1, 0, 1), (0, 0, 1, 3, 1),
        (0, 0, 1, 1, 0), (0, 0, 1, 1, 2 ^ 40 + 1)].all fun g => (armFieldsOf (armShape 1 5 g.1 1 1
          [(40, 1), (41, g.2.1), (42, g.2.2.1), (43, g.2.2.2.1), (48, g.2.2.2.2)])).params?.isNone) = true := by
  decide +kernel

/-- The refusal of a list of records, if there is one. -/
def refusal (x : Except (Status × Nat) (List Op)) : Option (Status × Nat) :=
  match x with
  | .error y => some y
  | .ok _ => none

/-- R39: a wrong record is found before an earlier operation that is not permitted; else the first one that is not. -/
theorem witness_ArmRefusedInOrder_records :
    let out := encodeOp (.write .w32 0x90000000 5)
    let line := encodeOp (.line 1 .high)
    let pause := encodeOp (.wait 8)
    let s := { part with wtb := granted }
    refusal (s.checkRecords 3 [out, pause, bytes 256 [(0, 8)]]) = some (.badField, 3)
      ∧ refusal (s.checkRecords 3 [pause, out, line]) = some (.accessDenied, 2)
      ∧ refusal (s.checkRecords 3 [pause, line, out]) = some (.lineDenied, 2)
      ∧ refusal (s.checkRecords 3 [pause, encodeOp (.stamp 0x8000FFF8)]) = none := by decide +kernel

/-- R58 step 1, at the ends of the ranges (section 11.2.4). -/
theorem witness_AmendMovesAnArmedAction_fields :
    (∀ x ∈ [(1, 0, 0, 0, 0), (2, 1, 65535, 1, 1000), (1, 1, 0, 1, 2 ^ 48)],
      (amendFieldsOf (bytes 1024
        [(0, 4), (1, x.1), (2, x.2.1), (16, x.2.2.1), (3, x.2.2.2.1), (24, x.2.2.2.2)])).shapeOk = true)
    ∧ (∀ x ∈ [(0, 0, 0, 0, 0), (3, 0, 0, 0, 0), (1, 2, 0, 0, 0), (1, 0, 1, 0, 0), (1, 0, 0, 2, 1000), (1, 0, 0, 0, 1000),
        (1, 0, 0, 1, 999), (1, 0, 0, 1, 0), (1, 0, 0, 1, 2 ^ 48 + 1)],
      (amendFieldsOf (bytes 1024
        [(0, 4), (1, x.1), (2, x.2.1), (16, x.2.2.1), (3, x.2.2.2.1), (24, x.2.2.2.2)])).shapeOk = false) := by
  decide +kernel

/-- Section 11.3: a FIRE entry with every field set, written out byte by byte. -/
theorem test_completion_entry_layout :
    Completion.encode
      { kind := .fire, status := .overrun, source := 9, late := true, final := true, opIndex := 5, aux16 := 0x0102
        tag := 0x0A0B0C0D, aux32 := 0x11223344, time := 0x5566778899AABBCC, value := 0x1020304050607080 } true 0x0E0F
      = bytes 256 [(0, 0x82), (1, 0x24), (2, 9), (3, 0x5B), (4, 0x0E0F), (6, 0x0102), (8, 0x0A0B0C0D), (12, 0x11223344),
          (16, 0x5566778899AABBCC), (24, 0x1020304050607080)] := by decide +kernel

/-- Section 11.2.3: records written out byte by byte hold the operations they stand for, and not with an unused byte set. -/
theorem witness_OperationRecordsRoundTrip_layout :
    opOf (bytes 256 [(0, 3), (1, 64), (8, 0x80000008), (16, 0x50), (24, 0xF0)])
        = some (.maskedWrite .w64 0x80000008 0x50 0xF0)
    ∧ opOf (bytes 256 [(0, 4), (1, 32), (4, 1000), (8, 4), (16, 1), (24, 1)]) = some (.poll .w32 4 1 1 1000)
    ∧ opOf (bytes 256 [(0, 6), (2, 4), (3, 2)]) = some (.line 3 .high)
    ∧ opOf (bytes 256 [(0, 7), (4, 1000000000)]) = some (.wait 1000000000)
    ∧ opOf (bytes 256 [(0, 7), (4, 1000000001)]) = none ∧ opOf (bytes 256 [(0, 6), (2, 5), (3, 2)]) = none
    ∧ opOf (bytes 256 [(0, 3), (1, 32), (8, 4), (28, 1)]) = none ∧ opOf (bytes 256 [(0, 5), (1, 32), (8, 8)]) = none := by
  decide +kernel

/-! ## Witnesses: staging head after head, and step events -/

/-- Engine 1 is BOUND to slot 5, its due less the lead just reached, engine 2 to slot 6, one ns ahead of it; slots 7 and 8 are
ARMED, their due reached; a step event waits at DSP. -/
def steppedBack : State :=
  let s := ((((bound 1020000 .fire).setSlot 6 { action .staged 0 [] with tag := 21, due := 1020001, seq := 3 }).setEngine 2
    { Engine.boundTo 6 1020001 with fresh := false }).setSlot 7 { action .armed 0 [] with tag := 22, seq := 4 }).setSlot 8
      { action .armed 0 [] with tag := 23, seq := 5 }
  { s with dsp := { s.dsp with
      schedule := [{ slot := 7, time := 1000000, seq := 4 }, { slot := 8, time := 1000000, seq := 5 }]
      steps := [{ kind := .step, before := 2000000, after := 1000000 }] } }

/-- R91: slot 6 returns to the schedule; slots 7 and 8 go to the two lowest IDLE engines; engine 1 stays BOUND. -/
theorem witness_StepEventUnbinds_stays :
    steppedBack.dsp.steps ≠ [] ∧ Lives steppedBack ∧ StoreLaw steppedBack ∧ PlacementLaw steppedBack ∧ OrderLaw steppedBack
      ∧ (steppedBack.engine 1).due = steppedBack.tb.value + 1000 * steppedBack.dsp.lead
      ∧ (run .dspStepEvent steppedBack).engine 1 = steppedBack.engine 1
      ∧ (run .dspStepEvent steppedBack).dsp.engines.toList.map (fun x => (x.state, x.slot))
          = [(.bound, 7), (.bound, 5), (.bound, 8), (.idle, 0)]
      ∧ (run .dspStepEvent steppedBack).dsp.schedule = [{ slot := 6, time := 1020001, seq := 3 }] := by decide +kernel

/-- The predicate of the engines that lie ahead exists. -/
theorem witness_StepEventUnbinds_ahead : ∃ ahead : Fin 4 → Prop, ∀ e, ahead e ↔ (steppedBack.engine e).state = .bound
    ∧ steppedBack.tb.value + 1000 * steppedBack.dsp.lead < (steppedBack.engine e).due :=
  ⟨_, fun _ => Iff.rfl⟩

/-- Log entry 36: with the lead shortened to 2 µs, a forward step unbinds both engines. -/
theorem test_forward_step_after_a_shorter_lead :
    let s := { steppedBack with dsp := { steppedBack.dsp with lead := 2 } }
    (run .dspStepEvent s).dsp.schedule
      = [{ slot := 5, time := 1020000, seq := 2 }, { slot := 6, time := 1020001, seq := 3 }] := by decide +kernel

/-- R89, R71: where dispatch was held, or the lead is lengthened, the heads are staged in the order of the schedule. -/
theorem witness_DispatchCommands_staging :
    (∀ h ∈ steppedBack.dsp.schedule, (steppedBack.slot? h.slot).map Slot.state = some .armed)
    ∧ (steppedBack.dsp.schedule.map TimedEntry.slot).Nodup
    ∧ (
      let s := { steppedBack with rqe := (admin (bytes 1024 [(0, 0x52)])).rqe, dsp := { steppedBack.dsp with hold := true } }
      AdminWaits s 0 .resumeDispatch (bytes 1024 [(0, 0x52)]) ∧ s.dsp.hold = true
        ∧ newlyBound s (run (.resumeDispatch 0) s) = [0, 3])
    ∧ (let s := { armed 0 with
        rqe := (admin (dispatchEntry 1000 1)).rqe
        tb := { value := 4, fraction := 0, state := .running, slew := .none } }
      AdminWaits s 0 .setDispatch (dispatchEntry 1000 1) ∧ ((run (.setDispatch 0) s).engine 0).slot = 5) := by
  decide +kernel

/-! ## Witnesses: reads that return or fail in a stopped instance -/

theorem witness_PollReadsUntilItMatches_stopped :
    let o := Op.poll .w32 0x80000000 1 1 5000
    ∀ p ∈ [(Stop.budget, EngineState.idle, none), (.teardown, .idle, none), (.fatal, .halted, some 1)],
      let s := running [o] (reading 0 0) (some p.1)
      InProgress s 1 (action .firing 0 [o]) o .readWait ∧ (s.engine 1).path.onLink = true ∧ (s.engine 1).stop = some p.1
        ∧ ((run (.pollReadReturned 1 1) s).engine 1).state = p.2.1
        ∧ ((run (.pollReadReturned 1 1) s).slot? 5).map Slot.capture = p.2.2 := by decide +kernel

theorem witness_ReadsFail_stopped :
    let o := Op.read .w64 0x80000000
    ∀ k ∈ [Stop.budget, .teardown, .fatal],
      let s := running [o] (reading 100000 0) (some k)
      InProgress s 1 (action .firing 0 [o]) o .readWait ∧ (s.engine 1).path.onLink = true
        ∧ 100000 ≤ (s.engine 1).path.readTimer ∧ (s.engine 1).stop = some k
        ∧ ((run (.readTimeout 1) s).engine 1).state = (if k = .fatal then .halted else .idle)
        ∧ (run (.readTimeout 1) s).hp.stale = [.operation 1]
        ∧ (fields (run (.readTimeout 1) s)).map (fun x => (x.1, x.2.1)) = (if k = .budget then some (0x24, 1) else none) := by
  decide +kernel

/-! ## Witnesses: RELEASE with its drain, the write of an entry, teardown with something in flight -/

/-- R182, R189: a full ring of eight with three completions held. Two entries are released: the ring is re-armed with pending
6, and two are written, oldest first; the second reaches the threshold of 8, and the notification follows it. -/
theorem witness_ReleaseFreesEntries_drain :
    let s := small 8 0 [fire 1, fire 2, fire 3] 0 0 false
    let t := run (.release 0x30002) s
    s.hp.condition = .ready ∧ (s.cq 3).state = .active ∧ 2 < (s.cq 3).size
      ∧ (2 + (s.cq 3).size - (s.cq 3).consumer) % (s.cq 3).size = 2
      ∧ (t.cq 3).outbox = [fire 3] ∧ (t.cq 3).notify = .sent ∧ (t.cq 3).pending = 0 ∧ (t.cq 3).holdTimer = none
      ∧ (t.handed.drop s.handed.length).map (fun w => match w with
          | .entry _ a d => (a.toNat, bytesOf d 8 4)
          | .notify _ a v => (a.toNat, v.toNat))
        = [(0x200000, 1), (0x200020, 2), (0x5000, 7)] := by decide +kernel

/-- R189: without held completions the ring is re-armed with what is left, its hold timer from 0, or stopped with nothing
left. -/
theorem witness_ReleaseFreesEntries_rearm :
    let s := small 5 5 [] 0 0 true
    (s.cq 3).outbox = [] ∧ ((run (.release 0x30002) s).cq 3).pending = 3
      ∧ ((run (.release 0x30002) s).cq 3).holdTimer = some 0 ∧ ((run (.release 0x30005) s).cq 3).holdTimer = none
      ∧ (run (.release 0x30005) s).handed = s.handed := by decide +kernel

/-- R183, R187: a ring at its wrap, in ARMED with nothing pending, and rings with and without a notification that is due. -/
theorem witness_WaitingWritesAndHoldTimers_entry :
    let x := (small 7 7 [] 0 2 true).cq 3
    x.produced < x.size ∧ x.afterWrite.produced = 0 ∧ x.afterWrite.lap = false ∧ x.afterWrite.lost = 0
      ∧ x.afterWrite.pending = 1 ∧ x.afterWrite.holdTimer = some 0
      ∧ (x.state = .active ∧ x.notify = .armed ∧ x.notifyAddr ≠ 0 ∧ x.threshold = 8 ∧ x.hold = 100)
      ∧ CqContext.notices { x with pending := 8 } 3 = [.notify 3 0x5000 7]
      ∧ CqContext.notices { x with pending := 1, holdTimer := some 100000 } 3 = [.notify 3 0x5000 7]
      ∧ CqContext.notices { x with pending := 7, holdTimer := some 99999 } 3 = [] := by decide +kernel

/-- R94, R113, R195: an engine that waits for a read or a LINE answer keeps waiting with its slot, and a CU write stays. -/
theorem witness_TeardownEmptiesThePart_waits :
    ∀ p ∈ [Phase.readWait, .lineWait],
      let s := { running [.wait 8] { OpPath.reset with phase := p, onLink := true } none with
        hp := { part.hp with posted := [.cu (.notify 1 0x5000 7) false, .op 2] } }
      s.hp.condition = .ready ∧ (s.engine 1).state = .running ∧ (s.engine 1).path.phase = p ∧ StoreLaw s ∧ PlacementLaw s
        ∧ (run .teardown s).engine 1 = { s.engine 1 with stop := some .teardown }
        ∧ (run .teardown s).slot? 5 = s.slot? 5 ∧ (s.slot? 5).isSome = true
        ∧ (run .teardown s).hp.posted = [.cu (.notify 1 0x5000 7) false] := by decide +kernel

/-- Of an ARMED slot 5 and a STAGED slot 6 of ring 1, the deletion of ring 1 removes slot 5 alone. -/
theorem witness_SubmissionRingCommands_sweep :
    let s := { (armed 0).setSlot 6 { action .staged 1000 [] with tag := 21 } with
      rqe := (admin (bytes 1024 [(0, 0x42), (1, 1)])).rqe }
    AdminWaits s 0 .deleteSq (bytes 1024 [(0, 0x42), (1, 1)]) ∧ StoreLaw s ∧ (s.sq 1).state = .active
      ∧ (∃ removed : Nat → Prop, ∀ id, removed id ↔ ∃ x, s.slot? id = some x ∧ x.ring = 1
          ∧ (x.state = .armed ∨ x.state = .awaiting ∨ x.state = .listening))
      ∧ (run (.deleteSubmissionRing 0) s).ast.slots.map (fun p => (p.1, p.2.endRequested)) = [(6, true)]
      ∧ (run (.deleteSubmissionRing 0) s).dsp.schedule = [] :=
  ⟨by decide +kernel, by decide +kernel, by decide +kernel, ⟨_, fun _ => Iff.rfl⟩, by decide +kernel, by decide +kernel⟩

/-! ## Witnesses: the sequence counter, the port, registers, and clauses over DELETING rings and listeners -/

/-- R48 and log entry 12: the counter is 64 bits wide. -/
theorem test_sequence_counter_wraps :
    let t := State.enterSchedule { part with ast := { part.ast with seq := BitVec.allOnes 64 } } 5 (action .armed 0 []) 1000000
    t.ast.seq = 0 ∧ t.dsp.schedule = [{ slot := 5, time := 1000000, seq := BitVec.allOnes 64 }] := by decide +kernel

/-- R177, R199: a CU write handed over with the link open, behind another write, without a credit, and while the bus master
enable is clear. -/
theorem witness_WaitingWritesAndHoldTimers_port :
    let w := CuWrite.notify 1 0x5000 7
    let h := part.hp
    h.busMaster = true ∧ h.posted = [] ∧ 0 < h.credits
      ∧ ((h.takeCuWrite w).posted, (h.takeCuWrite w).bus, (h.takeCuWrite w).credits) = ([], [.cuNotify 1 0x5000 7], 3)
      ∧ (HostPort.takeCuWrite { h with posted := [.op 2] } w).posted = [.op 2, .cu w false]
      ∧ (HostPort.takeCuWrite { h with credits := 0 } w).posted = [.cu w false]
      ∧ (HostPort.takeCuWrite { h with busMaster := false } w).posted = [.cu w true] := by decide +kernel

/-- R187 and log entry 40: the hold timer of an ACTIVE ring counts, that of a FAULTED one does not. -/
theorem witness_ElapsedTimeCountsPeriods_faulted :
    let s := coalescing 3 8
    let f := s.setCq 5 { s.cq 5 with state := .faulted }
    ((run (.timebaseAdvance 0) s).cq 5).holdTimer = some 16 ∧ (f.cq 5).state ≠ .active
      ∧ ((run (.timebaseAdvance 0) f).cq 5).holdTimer = some 8 := by decide +kernel

/-- R198: writes that reach CONTROL, POST and RELEASE, by either width. -/
theorem test_register_writes_are_commands :
    ((run (.registerWrite 0x08 .dword 1) State.reset).hp.configError, (run (.registerWrite 0x08 .qword 2) part).hp.condition)
      = (true, .teardown)
    ∧ ((run (.registerWrite 0x28 .dword 0xF00000005) part).sq 0).tail = 5
    ∧ ((run (.registerWrite 0x28 .qword 0x1001F) part).sq 1).tail = 31
    ∧ ((run (.registerWrite 0x30 .dword 0xF00030003) (small 8 0 [] 0 0 false)).cq 3).unreleased = 5 := by decide +kernel

/-- R45, R46: the tag index and the holdings over a store that keeps its law. -/
theorem witness_QueryReportsTheSlot_index :
    let s := (armed 0).setSlot 9 { action .armed 0 [] with ring := 2, seq := 7 }
    StoreLaw s ∧ (s.tagLookup 1 20).map Prod.fst = some 5 ∧ (s.tagLookup 2 20).map Prod.fst = some 9
      ∧ (s.tagLookup 1 21).isNone = true ∧ s.holdings 3 = 2 ∧ s.holdings 4 = 0 := by decide +kernel

/-- R79, R170: on a DELETING ring a recurring action ends by its mark. -/
theorem witness_InstanceEndReportsAndReArms_deletingRecurring :
    let s := deleting (recurring 0 0 1000000 .every true false)
    Lives s ∧ (s.slot? (s.engine 1).slot).map (fun x => (x.period, x.endRequested)) = some (1000, true)
      ∧ (s.sq 1).state = .deleting ∧ (s.cq (s.sq 1).cq).state = .active ∧ (s.cq (s.sq 1).cq).outbox = []
      ∧ 1 ≤ (s.cq (s.sq 1).cq).room ∧ (s.endInstance 1 .ok 0).slot? 5 = none
      ∧ (((s.setSq 1 { s.sq 1 with inFlight := false }).endInstance 1 .ok 0).sq 1).state = .absent := by decide +kernel

/-- Two actions that listen on IN0, slot 6 before slot 5. -/
def twoListeners : State :=
  let s := reporting.setSlot 6 { action .listening 0 [] with tag := 21, gate := some gate, seq := 3 }
  { s with
    ast := { s.ast with seq := 40 }
    lnu := { s.lnu with
      calendar := [{ slot := 5, time := 1500000, seq := 2 }, { slot := 6, time := 1500000, seq := 3 }]
      listen := s.lnu.listen.set 0 [6, 5] } }

/-- R128: they are released in list order, with the next two numbers. -/
theorem witness_InputEdges_order :
    twoListeners.lnu.listen[(0 : Fin 4)].Nodup
      ∧ (run (.inputEdge 0 .rise) twoListeners).dsp.schedule
          = [{ slot := 6, time := 1000100, seq := 40 }, { slot := 5, time := 1000100, seq := 41 }]
      ∧ (run (.inputEdge 0 .rise) twoListeners).ast.seq = 42 := by decide +kernel

/-- R118: a line that a command enables sees no edge in that period, and either kind in the next. -/
theorem witness_ConfigureInputLineChecks_enabling :
    let e := bytes 1024 [(0, 0x49), (1, 3), (2, 1), (3, 3), (4, 1)]
    let t := run (.configureInputLine 0) (admin e)
    ((admin e).input 3).enabled = false ∧ (t.input 3).enabled = true ∧ run (.inputEdge 3 .rise) t = t
      ∧ ((run (.inputEdge 3 .rise) (run (.timebaseAdvance 0) t)).input 3).level = some .high := by decide +kernel

/-- R161: a new round with ring 0 and the ABSENT rings untouched, and the read of the entry on the link. -/
theorem witness_ArbiterGrants_round :
    let s := rings 0 0 0 2
    let t := run .requestGrant s
    (s.sq 2).state = .absent ∧ t.sq 2 = s.sq 2 ∧ t.sq 0 = s.sq 0 ∧ t.ctx 1 = s.ctx 1
      ∧ t.hp = { s.hp with bus := s.hp.bus ++ [.entryRead 0 0x300080] } := by decide +kernel

/-- R165, R170: a refused entry of a DELETING ring, which retires with its completion, or not while a slot is left. -/
theorem witness_EntriesAreTaken_deleting :
    let s := deleting (part.setCtx 0 (.fetch 1 1 0 true))
    s.hp.condition = .ready ∧ s.ctx 0 = .fetch 1 1 0 true ∧ (s.sq 1).state = .deleting
      ∧ (s.cq (s.sq 1).cq).state = .active ∧ entryRefusal 1 (bytes 1024 [(0, 6)]) = some .malformed
      ∧ ((run (.entryTaken 0 (bytes 1024 [(0, 6)])) s).sq 1).state = .absent
      ∧ ((run (.entryTaken 0 (bytes 1024 [(0, 6)])) (s.setSlot 5 (action .firing 0 []))).sq 1).state = .deleting := by
  decide +kernel

/-- R199: the next read of a POLL while the bus master enable is clear is answered at once, off the link. -/
theorem witness_PollReadsUntilItMatches_clear :
    let o := Op.poll .w32 0x80000000 1 1 5000
    let s := { running [o] { OpPath.reset with phase := .pollGap, pollSpacingTimer := 1000, pollLimitTimer := 4999 } none with
      wtb := granted, hp := { part.hp with busMaster := false } }
    InProgress s 1 (action .firing 0 [o]) o .pollGap ∧ s.hp.busMaster = false
      ∧ permitted s.wtb 3 .read 0x80000000 4 = true ∧ ((run (.pollSpacingElapsed 1) s).engine 1).path.onLink = false
      ∧ (run (.pollSpacingElapsed 1) s).hp.bus = [] := by decide +kernel

/-- R136: after teardown an input line is enabled as before and its level is unknown. -/
theorem witness_TeardownEmptiesThePart_inputs :
    let s := { spaced 5 0 with hp := { part.hp with condition := .teardown, enable := false } }
    (∀ e, (s.engine e).state = .idle ∧ (s.engine e).path.phase = .idle) ∧ s.hp.posted = []
      ∧ (run .teardownEnd s).input 1 = { s.input 1 with level := none, sampled := true } := by decide +kernel

/-- R183, R190 and log entry 42: an entry that reports 5 losses waits for the link and is refused; it alone is counted. -/
theorem test_failed_lost_report :
    let s := { (small 3 3 [] 0 5 true) with hp := { part.hp with credits := 0 } }
    let t := s.postCompletion 3 (fire 1)
    let f := { t with hp := { t.hp with busMaster := false } }
    (t.cq 3).lost = 0 ∧ ((run .completionWriteFailed f).cq 3).state = .faulted
      ∧ ((run .completionWriteFailed f).cq 3).lost = 1 := by decide +kernel

end Sys2Proof.Tests
end

/-! The permission test of WTB (chapter 7): the executable test read back as the words of R141, in terms of table indices
and of single bytes. -/

namespace Sys2Proof.Machine

open Sys2Proof

/-- The valid windows are those that stand at some index of the table; which index does not matter (R142). -/
theorem mem_validWindows_iff {t : Vector (Option Window) 32} {w : Window} :
    w ∈ validWindows t ↔ ∃ i : Fin 32, t[i] = some w := by
  have mem_toList : w ∈ validWindows t ↔ some w ∈ t := by simp [validWindows]
  rw [mem_toList, Vector.mem_iff_getElem]
  constructor
  · rintro ⟨i, hi, h⟩
    exact ⟨⟨i, hi⟩, h⟩
  · rintro ⟨i, h⟩
    exact ⟨i, i.isLt, h⟩

theorem exists_mem_validWindows_iff {t : Vector (Option Window) 32} {P : Window → Prop} :
    (∃ w ∈ validWindows t, P w) ↔ ∃ (i : Fin 32) (w : Window), t[i] = some w ∧ P w := by
  simp only [mem_validWindows_iff, ← exists_and_right, exists_comm (α := Window)]

/-- R140, with the right asked for spelled out for each direction. -/
theorem Window.applies_iff {w : Window} {tenant : Nat} {d : Direction} :
    w.applies tenant d = true ↔
      w.tenants.getLsbD tenant = true ∧ (d = .read → w.read = true) ∧ (d = .write → w.write = true) := by
  cases d <;> simp [Window.applies]

/-- A window is an interval, so it contains every byte once it contains the first and the last. -/
theorem Window.coversAll_iff {w : Window} {a : Addr} {len : Nat} (hlen : 0 < len) :
    w.coversAll a len = true ↔
      ∀ b < len, w.base.toNat ≤ a.toNat + b ∧ a.toNat + b < w.base.toNat + w.size := by
  rw [Window.coversAll, decide_eq_true_iff]
  constructor
  · intro h b hb
    omega
  · intro h
    have first := h 0 hlen
    have last := h (len - 1) (by omega)
    omega

/-- Where a window that is not empty meets an access that is not empty, the later of their first bytes is in both. -/
theorem Window.coversAny_iff {w : Window} {a : Addr} {len : Nat} (hlen : 0 < len) (hsize : 0 < w.size) :
    w.coversAny a len = true ↔
      ∃ b < len, w.base.toNat ≤ a.toNat + b ∧ a.toNat + b < w.base.toNat + w.size := by
  rw [Window.coversAny, decide_eq_true_iff]
  constructor
  · intro h
    exact ⟨w.base.toNat - a.toNat, by omega⟩
  · rintro ⟨b, hb, hin⟩
    omega

theorem permitted_iff {t : Vector (Option Window) 32} {tenant : Nat} {d : Direction} {a : Addr} {len : Nat} :
    permitted t tenant d a len = true ↔
      (∃ w ∈ validWindows t, w.kind = .grant ∧ w.applies tenant d = true ∧ w.coversAll a len = true)
      ∧ ¬ ∃ w ∈ validWindows t, w.kind = .deny ∧ w.applies tenant d = true ∧ w.coversAny a len = true := by
  simp only [permitted, Bool.and_eq_true, Bool.not_eq_true', Bool.eq_false_iff, ne_eq, List.any_eq_true, beq_iff_eq,
    and_assoc]

theorem Window.size_pos_of_ok {w : Window} (h : w.ok = true) : 0 < w.size := by
  simp only [Window.ok, Bool.and_eq_true, decide_eq_true_iff] at h
  omega

theorem WindowLaw.size_pos {s : State} {w : Window} (law : WindowLaw s) (h : w ∈ validWindows s.wtb) : 0 < w.size :=
  Window.size_pos_of_ok (List.all_eq_true.mp law w h)

/-- Settles O11, half by half. The table's law (R139) is needed for the DENY half alone: an empty window could lie
strictly inside an access and contain none of its bytes. -/
theorem permissionTest : Obligations.PermissionTest := by
  intro s tenant d a len law hlen
  have len_pos : 0 < len := by omega
  rw [permitted_iff]
  refine and_congr ?grant (not_congr ?deny)
  case grant =>
    simp only [exists_mem_validWindows_iff, Window.applies_iff, Window.coversAll_iff len_pos, and_assoc]
  case deny =>
    rw [← exists_mem_validWindows_iff]
    refine exists_congr fun w => and_congr_right fun valid => and_congr_right fun _ => ?_
    rw [Window.applies_iff, Window.coversAny_iff len_pos (law.size_pos valid), and_assoc, and_assoc]

end Sys2Proof.Machine

/-! POST (R155, R156): when a POST is applied, in the words of R155, and what it does in each of the three cases. -/

namespace Sys2Proof.Machine

open Sys2Proof

theorem exec_post (d : Word64) (s : State) : exec (.post d) s = .next (s.writePost d) := by
  rfl

theorem State.isReady_iff {s : State} : s.isReady = true ↔ s.hp.condition = .ready := by
  simp only [State.isReady, beq_iff_eq]

/-- The ring a POST names is the one whose number stands in the word's ring field. -/
theorem eq_wordRing {d : Word64} {r : Fin 16} (h : r.val = (d.extractLsb' 16 4).toNat) : r = wordRing d :=
  Fin.ext h

/-- R155: the POSTs that are applied. -/
theorem State.postAccepted_iff {s : State} {d : Word64} :
    s.postAccepted d = true ↔
      d.extractLsb' 20 44 = 0
      ∧ ((s.sq (wordRing d)).state = .active ∨ (s.sq (wordRing d)).state = .faulted)
      ∧ wordIndex d < (s.sq (wordRing d)).size := by
  simp only [State.postAccepted, wordReserved, Bool.and_eq_true, Bool.or_eq_true, Bool.not_eq_true', bne_eq_false_iff_eq,
    beq_iff_eq, decide_eq_true_iff, and_assoc]

/-- A ring is in none of the two states that take a POST exactly when it is in one of the other two. -/
theorem SqState.not_active_or_faulted_iff {x : SqState} :
    ¬ (x = .active ∨ x = .faulted) ↔ x = .absent ∨ x = .deleting := by
  cases x <;> decide

/-- R155: each ground for refusing a POST, one by one. -/
theorem State.postAccepted_eq_false_iff {s : State} {d : Word64} :
    s.postAccepted d = false ↔
      d.extractLsb' 20 44 ≠ 0 ∨ (s.sq (wordRing d)).state = .absent ∨ (s.sq (wordRing d)).state = .deleting
      ∨ (s.sq (wordRing d)).size ≤ wordIndex d := by
  rw [← Bool.not_eq_true, State.postAccepted_iff, not_and_or, not_and_or, SqState.not_active_or_faulted_iff, not_lt, or_assoc]

theorem State.writePost_of_not_ready {s : State} (d : Word64) (h : s.hp.condition ≠ .ready) : s.writePost d = s :=
  if_neg (mt State.isReady_iff.mp h)

theorem State.writePost_of_accepted {s : State} {d : Word64} (ready : s.hp.condition = .ready)
    (accepted : s.postAccepted d = true) :
    s.writePost d = s.setSq (wordRing d) ((s.sq (wordRing d)).posted (wordRing d) (wordIndex d)) := by
  rw [State.writePost, if_pos (State.isReady_iff.mpr ready), if_pos accepted]

theorem State.writePost_of_refused {s : State} {d : Word64} (ready : s.hp.condition = .ready)
    (refused : s.postAccepted d = false) : s.writePost d = s.badPost d := by
  rw [State.writePost, if_pos (State.isReady_iff.mpr ready), if_neg (Bool.eq_false_iff.mp refused)]

/-- Settles O45: a POST is ignored, applied or answered by the notice, and the grounds of R155 decide between the last
two. -/
theorem postSetsTheTail : Obligations.PostSetsTheTail := by
  intro s d r i index ring
  obtain rfl : i = wordIndex d := index
  obtain rfl := eq_wordRing ring
  rw [exec_post]
  refine ⟨fun notReady => ?ignored, fun ready reserved state below => ?applied, fun ready grounds => ?refused⟩
  case ignored => rw [State.writePost_of_not_ready d notReady]
  case applied =>
    rw [State.writePost_of_accepted ready (State.postAccepted_iff.mpr ⟨reserved, state, below⟩), SqContext.posted]
  case refused =>
    rw [State.writePost_of_refused ready (State.postAccepted_eq_false_iff.mpr grounds), State.badPost, State.postNotice,
      State.now]

end Sys2Proof.Machine

/-! What a command can do to the part's controls: the clock, the windows, the dispatch parameters, the input and output
lines and the condition of the part. One inversion lemma over all commands; the laws about these fields follow from it. -/

namespace Sys2Proof.Machine

open Sys2Proof

/-! ## The controls of the part -/

/-- The fields that software sets and that firing, requests and completions leave alone. -/
structure Control where
  tb : Timebase
  wtb : Vector (Option Window) 32
  lead : Nat
  budget : Nat
  inputs : Vector InputLine 4
  outputs : Vector OutputLine 4
  condition : Condition

def State.control (s : State) : Control :=
  { tb := s.tb, wtb := s.wtb, lead := s.dsp.lead, budget := s.dsp.budget, inputs := s.lnu.inputs,
    outputs := s.lnu.outputs, condition := s.hp.condition }

theorem ActionFrame.control {s t : State} (h : ActionFrame s t) : t.control = s.control := by
  simp only [State.control, h.tb, h.wtb, h.lead, h.budget, h.inputs, h.outputs, HostPort.sameBut_condition h.hp]

/-- Every output line at its safe level (R135, R136). -/
def Control.safe (k : Control) : Control := { k with outputs := k.outputs.map (fun x => { x with level := x.safe }) }

/-- What one command can do to the controls, with what its checks have made sure of. -/
inductive ControlMove : Instr → Control → Control → Prop
  | stay {i : Instr} {k : Control} : ControlMove i k k
  | setTime {c : Fin 8} {k : Control} {v : Nat} (valid : v ≤ Config.maxTime) :
      ControlMove (.setTime c) k { k with tb := { value := v, fraction := 0, state := .running, slew := .none } }
  | stepTime {c : Fin 8} {k : Control} {v : Nat} (valid : v ≤ Config.maxTime) :
      ControlMove (.stepTime c) k { k with tb := { k.tb with value := v } }
  | slewTime {c : Fin 8} {k : Control} {rate : Int} {ms : Nat} (running : k.tb.state ≠ .unset)
      (low : -Config.maxRate ≤ rate) (high : rate ≤ Config.maxRate) (duration : ms ≤ 65535) :
      ControlMove (.slewTime c) k { k with tb := { k.tb with slew := newSlew rate ms } }
  | slewExpired {k : Control} : ControlMove .slewExpired k { k with tb := { k.tb with slew := k.tb.slew.current } }
  | period {i : Instr} {k : Control} : ControlMove i k
      { k with tb := k.tb.advance, inputs := k.inputs.map (fun x => { x with sampled := false }) }
  | setWindow {c : Fin 8} {k : Control} {e : Entry} {w : Window} (n : Fin 32) (valid : windowOf e = some w) :
      ControlMove (.setWindow c) k { k with wtb := k.wtb.set n (some w) }
  | clearWindow {c : Fin 8} {k : Control} (n : Fin 32) :
      ControlMove (.clearWindow c) k { k with wtb := k.wtb.set n none }
  | setDispatch {c : Fin 8} {k : Control} {lead budget : Nat}
      (valid : 2 ≤ lead ∧ lead ≤ 1000 ∧ 1 ≤ budget ∧ budget ≤ 1000) :
      ControlMove (.setDispatch c) k { k with lead := lead, budget := budget }
  | input {i : Instr} {k : Control} {x : InputLine} (l : Fin 4) (valid : k.inputs[l].ok = true → x.ok = true) :
      ControlMove i k { k with inputs := k.inputs.set l x }
  | output {i : Instr} {k : Control} {x : OutputLine} (l : Fin 4) (valid : k.outputs[l].ok = true → x.ok = true)
      (safe : x.level = x.safe ∨ (k.condition ≠ .fatal ∧ k.condition ≠ .teardown)) :
      ControlMove i k { k with outputs := k.outputs.set l x }
  | fatal {i : Instr} {k : Control} : ControlMove i k { k.safe with condition := .fatal }
  | teardown {i : Instr} {k : Control} : ControlMove i k
      { k.safe with
        condition := .teardown
        inputs := k.inputs.map (fun x => { x with report := none, reportRing := none, lastEdge := none, suppressed := 0 }) }
  | condition {i : Instr} {k : Control} {c : Condition} (valid : c = .off ∨ c = .ready) :
      ControlMove i k { k with condition := c }
  | teardownEnd {i : Instr} {k : Control} {c : Condition} (valid : c = .off ∨ c = .ready) :
      ControlMove i k { k with condition := c, inputs := k.inputs.map InputLine.resumed }
  | reset {kind : ResetKind} {k : Control} : ControlMove (.reset kind) k State.reset.control

/-- From `s` to `t` a command leaves the queue alone and makes at most one move of the controls. -/
structure Moves (i : Instr) (s t : State) : Prop where
  pending : t.pending = s.pending
  control : ControlMove i s.control t.control

theorem Moves.of_action {i : Instr} {s t : State} (h : ActionFrame s t) : Moves i s t :=
  ⟨h.pending, by rw [h.control]; exact .stay⟩

theorem Moves.of_request {i : Instr} {s t : State} (h : RequestFrame s t) : Moves i s t := .of_action h.toAction

theorem Moves.of_completion {i : Instr} {s t : State} (h : CompletionFrame s t) : Moves i s t := .of_request h.toRequest

theorem Moves.refl {i : Instr} (s : State) : Moves i s s := .of_action (.refl s)

/-- What touches no control comes before a move … -/
theorem Moves.after {i : Instr} {s u t : State} (h : ActionFrame s u) (m : Moves i u t) : Moves i s t :=
  ⟨m.pending.trans h.pending, by rw [← h.control]; exact m.control⟩

/-- … or after it. -/
theorem Moves.before {i : Instr} {s u t : State} (m : Moves i s u) (h : ActionFrame u t) : Moves i s t :=
  ⟨h.pending.trans m.pending, by rw [h.control]; exact m.control⟩

theorem Moves.answered {i : Instr} {s u : State} (m : Moves i s u) (c : Fin 8) (r : Fin 16) (x : Result) :
    Moves i s (u.completeRequest c r x) := m.before (frame_completeRequest u c r x).toAction

theorem Moves.answer {i : Instr} (s : State) (c : Fin 8) (r : Fin 16) (x : Result) :
    Moves i s (s.completeRequest c r x) := (Moves.refl s).answered c r x

/-- A step that leaves both the queue and the controls as they are. -/
theorem Moves.quiet {i : Instr} {s t : State} (hp : t.pending = s.pending) (hc : t.control = s.control) : Moves i s t :=
  ⟨hp, by rw [hc]; exact .stay⟩

/-! ## The store (chapters 2 and 3) -/

theorem moves_beginListFetch {i : Instr} (s : State) (c : Fin 8) (e : Entry) (id : Nat) (x : Slot) :
    Moves i s (s.beginListFetch c e id x) :=
  .of_action (((frame_setSlot s id x).trans (frame_setCtx _ c _).toAction).trans (frame_placeIfMaster _ _).toRequest.toAction)

theorem moves_refuseFetched {i : Instr} (s : State) (c : Fin 8) (r : Fin 16) (id : Nat) (x : Result) :
    Moves i s (s.refuseFetched c r id x) := (Moves.of_action (frame_freeSlot s id)).answered c r x

theorem moves_arm {i : Instr} (c : Fin 8) (s : State) : ∃ t, execArm c s = .next t ∧ Moves i s t := by
  refine ⟨_, rfl, ?_⟩
  split
  · split
    · exact .answer s c _ _
    · dsimp only
      split
      · exact moves_beginListFetch s c _ _ _
      · exact (Moves.of_action (frame_placeAction s _ _)).answered c _ _
  · exact .refl s

theorem moves_listFetchDone {i : Instr} (c : Fin 8) (x : ListResult) (s : State) :
    ∃ t, execListFetchDone c x s = .next t ∧ Moves i s t := by
  refine ⟨_, rfl, ?_⟩
  split
  · split
    · exact moves_refuseFetched s c _ _ _
    · split
      · unfold State.listArrived
        dsimp only
        split
        · exact moves_refuseFetched s c _ _ _
        · split
          · exact moves_refuseFetched s c _ _ _
          · exact (Moves.of_action (frame_placeAction s _ _)).answered c _ _
      · exact .refl s
  · exact .refl s

theorem moves_listFetchTimeout {i : Instr} (c : Fin 8) (s : State) :
    ∃ t, execListFetchTimeout c s = .next t ∧ Moves i s t := by
  refine ⟨_, rfl, ?_⟩
  split
  · split
    · have m := moves_refuseFetched (i := i) (s.noteStale (.list c))
      exact ⟨(m c _ _ _).pending, (m c _ _ _).control⟩
    · exact .refl s
  · exact .refl s

theorem moves_cancel {i : Instr} (c : Fin 8) (s : State) : ∃ t, execCancel c s = .next t ∧ Moves i s t := by
  refine ⟨_, rfl, ?_⟩
  split
  · split
    · exact .answer s c _ _
    · refine Moves.answered ?_ c _ _
      unfold State.cancelSlot
      split
      · exact .of_action (frame_freeSlot s _)
      · split
        · exact .of_action (frame_setSlot s _ _)
        · exact .refl s
  · exact .refl s

theorem moves_cancelAll {i : Instr} (c : Fin 8) (s : State) : ∃ t, execCancelAll c s = .next t ∧ Moves i s t := by
  refine ⟨_, rfl, ?_⟩
  split
  · exact (Moves.of_action (frame_sweepRing s _)).answered c _ _
  · exact .refl s

theorem moves_amend {i : Instr} (c : Fin 8) (s : State) : ∃ t, execAmend c s = .next t ∧ Moves i s t := by
  refine ⟨_, rfl, ?_⟩
  split
  · split
    · exact .answer s c _ _
    · exact (Moves.of_action ((frame_unplace s _).trans (frame_enterSchedule _ _ _ _))).answered c _ _
  · exact .refl s

theorem moves_query {i : Instr} (c : Fin 8) (s : State) : ∃ t, execQuery c s = .next t ∧ Moves i s t := by
  refine ⟨_, rfl, ?_⟩
  split
  · exact .answer s c _ _
  · exact .refl s

theorem moves_setTenantLimits {i : Instr} (c : Fin 8) (s : State) :
    ∃ t, execSetTenantLimits c s = .next t ∧ Moves i s t := by
  refine ⟨_, rfl, ?_⟩
  split
  · dsimp only
    split
    · exact .answer s c _ _
    · split
      · exact .answer s c _ _
      · split
        · exact .answer s c _ _
        · split
          · exact .answer s c _ _
          · exact Moves.answered (by exact .quiet rfl rfl) c _ _
  · exact .refl s

/-! ## The clock (chapter 1) -/

theorem moves_setTime (c : Fin 8) (s : State) : ∃ t, execSetTime c s = .next t ∧ Moves (.setTime c) s t := by
  refine ⟨_, rfl, ?_⟩
  split
  · dsimp only
    split
    · rename_i valid
      exact Moves.answered (by exact ⟨rfl, .setTime valid⟩) c _ _
    · exact .answer s c _ _
  · exact .refl s

theorem stepTarget_ok {t : Timebase} {offset : Int} {v : Nat} (h : stepTarget t offset = .ok v) :
    t.state = .running ∧ offset.natAbs < 2 ^ 62 ∧ v ≤ Config.maxTime ∧ (v : Int) = t.value + offset := by
  unfold stepTarget at h
  split at h
  · cases h
  · rename_i hs
    split at h
    · cases h
    · split at h
      · cases h
      · cases h
        refine ⟨?_, by omega, by omega, by omega⟩
        cases ht : t.state
        · exact absurd ht hs
        · rfl

theorem moves_stepTime (c : Fin 8) (s : State) : ∃ t, execStepTime c s = .next t ∧ Moves (.stepTime c) s t := by
  refine ⟨_, rfl, ?_⟩
  split
  · split
    · exact .answer s c _ _
    · rename_i v hv
      refine Moves.answered ⟨?_, ?_⟩ c _ _
      · split <;> rfl
      · have move := ControlMove.stepTime (c := c) (k := s.control) (stepTarget_ok hv).2.2.1
        split <;> exact move
  · exact .refl s

theorem moves_slewTime (c : Fin 8) (s : State) : ∃ t, execSlewTime c s = .next t ∧ Moves (.slewTime c) s t := by
  refine ⟨_, rfl, ?_⟩
  split
  · rename_i r e _
    split
    · exact .answer s c _ _
    · rename_i running
      split
      · exact .answer s c _ _
      · rename_i rate
        have duration : slewMsOf e ≤ 65535 := Nat.le_of_lt_succ (BitVec.isLt _)
        exact Moves.answered (by exact ⟨rfl, .slewTime running (by omega) (by omega) duration⟩) c _ _
  · exact .refl s

theorem moves_readTimeState {i : Instr} (c : Fin 8) (s : State) :
    ∃ t, execReadTimeState c s = .next t ∧ Moves i s t := by
  refine ⟨_, rfl, ?_⟩
  split
  · exact .answer s c _ _
  · exact .refl s

theorem moves_period {i : Instr} (s : State) (credits : Nat) : Moves i s (s.period credits) := ⟨rfl, .period⟩

theorem moves_timebaseCeiling {i : Instr} (credits : Nat) (s : State) :
    ∃ t, execTimebaseCeiling credits s = .next t ∧ Moves i s t := by
  refine ⟨_, rfl, ?_⟩
  split
  · exact moves_period s credits
  · exact .refl s

/-! ## Dispatch and operations (chapters 4 and 5) -/

theorem moves_holdDispatch {i : Instr} (c : Fin 8) (s : State) : ∃ t, execHoldDispatch c s = .next t ∧ Moves i s t := by
  refine ⟨_, rfl, ?_⟩
  split
  · exact Moves.answered (by exact .quiet rfl rfl) c _ _
  · exact .refl s

theorem moves_resumeDispatch {i : Instr} (c : Fin 8) (s : State) :
    ∃ t, execResumeDispatch c s = .next t ∧ Moves i s t := by
  refine ⟨_, rfl, ?_⟩
  split
  · rename_i r e _
    have m : Moves i s (({ s with dsp := { s.dsp with hold := false } }).completeRequest c r s.holdResult) :=
      Moves.answered (by exact .quiet rfl rfl) c r _
    dsimp only
    split
    · exact m.before (frame_stageAll _)
    · exact m
  · exact .refl s

theorem moves_setDispatch (c : Fin 8) (s : State) :
    ∃ t, execSetDispatch c s = .next t ∧ Moves (.setDispatch c) s t := by
  refine ⟨_, rfl, ?_⟩
  split
  · dsimp only
    split
    · rename_i valid
      exact (Moves.answered (by exact ⟨rfl, .setDispatch valid⟩) c _ _).before (frame_stageAll _)
    · exact .answer s c _ _
  · exact .refl s

theorem moves_instanceStart {i : Instr} (e : Fin 4) (s : State) :
    ∃ t, execInstanceStart e s = .next t ∧ Moves i s t := by
  refine ⟨_, rfl, ?_⟩
  split
  · split
    · exact .of_action (frame_startInstance s e _)
    · exact .refl s
  · exact .refl s

theorem moves_budgetExpired {i : Instr} (e : Fin 4) (s : State) :
    ∃ t, execBudgetExpired e s = .next t ∧ Moves i s t := by
  refine ⟨_, rfl, ?_⟩
  split
  · exact .of_action (frame_stopRunning s e _)
  · exact .refl s

theorem moves_dspStepEvent {i : Instr} (s : State) : ∃ t, execDspStepEvent s = .next t ∧ Moves i s t := by
  refine ⟨_, rfl, ?_⟩
  split
  · exact .refl s
  · dsimp only
    split
    · exact Moves.before (by exact .quiet rfl rfl) (frame_dspReact _)
    · exact .quiet rfl rfl

theorem moves_readDataReturned {i : Instr} (e : Fin 4) (d : Word64) (s : State) :
    ∃ t, execReadDataReturned e d s = .next t ∧ Moves i s t := by
  refine ⟨_, rfl, ?_⟩
  split
  · split
    · split
      · exact .of_action (frame_stoppedReturn s e _ _)
      · exact .of_action ((frame_setCapture s _ _).trans (frame_continueAfter _ e _ _))
    · exact .refl s
  · exact .refl s

theorem moves_maskedWriteReadReturned {i : Instr} (e : Fin 4) (d : Word64) (s : State) :
    ∃ t, execMaskedWriteReadReturned e d s = .next t ∧ Moves i s t := by
  refine ⟨_, rfl, ?_⟩
  split
  · split
    · split
      · exact .of_action (frame_stoppedReturn s e _ _)
      · exact .of_action ((frame_setCapture s _ _).trans (frame_maskedWriteBack _ e _ _ _ _ _ _))
    · exact .refl s
  · exact .refl s

theorem moves_pollReadReturned {i : Instr} (e : Fin 4) (d : Word64) (s : State) :
    ∃ t, execPollReadReturned e d s = .next t ∧ Moves i s t := by
  refine ⟨_, rfl, ?_⟩
  split
  · split
    · split
      · exact .of_action (frame_stoppedReturn s e _ _)
      · dsimp only
        split
        · exact .of_action ((frame_setCapture s _ _).trans (frame_continueAfter _ e _ _))
        · split
          · exact .of_action ((frame_setCapture s _ _).trans (frame_endInstance _ e _ _))
          · exact .of_action ((frame_setCapture s _ _).trans (frame_setPath _ e _ _))
    · exact .refl s
  · exact .refl s

theorem moves_readFailed {i : Instr} (e : Fin 4) (s : State) : ∃ t, execReadFailed e s = .next t ∧ Moves i s t := by
  refine ⟨_, rfl, ?_⟩
  split
  · exact .of_action (frame_failRead s e)
  · exact .refl s

theorem moves_readTimeout {i : Instr} (e : Fin 4) (s : State) : ∃ t, execReadTimeout e s = .next t ∧ Moves i s t := by
  refine ⟨_, rfl, ?_⟩
  split
  · split
    · exact Moves.before (by exact .quiet rfl rfl) (frame_failRead (s.noteStale (.operation e)) e)
    · exact .refl s
  · exact .refl s

theorem moves_writeAcceptedByLink {i : Instr} (e : Fin 4) (s : State) :
    ∃ t, execWriteAcceptedByLink e s = .next t ∧ Moves i s t := by
  refine ⟨_, rfl, ?_⟩
  split
  · rename_i rest _ _
    split
    · dsimp only
      split
      · refine Moves.before (u := { s with hp := { s.hp with posted := rest } }) (.quiet rfl rfl) ?_
        split
        · exact (frame_placeIfMaster _ _).toRequest.toAction.trans (frame_continueAfter _ e _ _)
        · exact frame_endInstance _ e _ _
      · exact .refl s
    · exact .refl s
  · exact .refl s

theorem moves_pollSpacingElapsed {i : Instr} (e : Fin 4) (s : State) :
    ∃ t, execPollSpacingElapsed e s = .next t ∧ Moves i s t := by
  refine ⟨_, rfl, ?_⟩
  split
  · split
    · split
      · exact .of_action ((frame_setPath s e _ _).trans (frame_placeIfMaster _ _).toRequest.toAction)
      · exact .of_action (frame_endInstance s e _ _)
    · exact .refl s
  · exact .refl s

theorem moves_pollLimitExpired {i : Instr} (e : Fin 4) (s : State) :
    ∃ t, execPollLimitExpired e s = .next t ∧ Moves i s t := by
  refine ⟨_, rfl, ?_⟩
  split
  · split
    · exact .of_action (frame_endInstance s e _ _)
    · exact .refl s
  · exact .refl s

theorem moves_waitElapsed {i : Instr} (e : Fin 4) (s : State) : ∃ t, execWaitElapsed e s = .next t ∧ Moves i s t := by
  refine ⟨_, rfl, ?_⟩
  split
  · split
    · exact .of_action (frame_continueAfter s e _ _)
    · exact .refl s
  · exact .refl s

/-! ## Lines and gates (chapter 6) -/

/-- The level of a line that LNU may set for a tenant: the line stays owned, and the part is alive. -/
theorem moves_setLevel {i : Instr} {s : State} {tenant : Nat} {l : Fin 4} (v : Level)
    (granted : s.lineGranted tenant l = true) : Moves i s (s.setLevel l v) := by
  simp only [State.lineGranted, State.live, Bool.and_eq_true, bne_iff_ne, beq_iff_eq] at granted
  obtain ⟨live, owner⟩ := granted
  refine ⟨rfl, .output l ?_ (.inr live)⟩
  intro ok
  change (s.output l).ok = true at ok
  simpa only [OutputLine.ok, owner] using ok

theorem moves_lineRequest {i : Instr} (e : Fin 4) (s : State) :
    ∃ t, execLineRequest e s = .next t ∧ Moves i s t := by
  refine ⟨_, rfl, ?_⟩
  split
  · rename_i x l v _
    dsimp only
    have m : Moves i s (if s.lineGranted x.tenant l then s.setLevel l v else s) := by
      split
      · exact moves_setLevel v ‹_›
      · exact .refl s
    split
    · exact m.before (frame_afterStop _ e _)
    · split
      · rename_i granted
        rw [if_pos granted] at m
        exact m.before (frame_continueAfter _ e _ _)
      · rename_i denied
        rw [if_neg denied] at m
        exact m.before (frame_endInstance _ e _ _)
  · exact .refl s

theorem raise_le_limit (a b : Nat) : raise a b ≤ Config.countLimit := Nat.min_le_right _ _

/-- A change of one input line that keeps its law is a move. -/
theorem moves_setInput {i : Instr} (s : State) (l : Fin 4) (x : InputLine) (valid : (s.input l).ok = true → x.ok = true) :
    Moves i s (s.setInput l x) := ⟨rfl, .input l valid⟩

/-- Two changes of one line are one move. -/
theorem Moves.setInput_again {i : Instr} {s u t : State} {l : Fin 4} {x : InputLine} (y : InputLine)
    (valid : (s.input l).ok = true → y.ok = true) (hu : u = s.setInput l x) (frame : ActionFrame u t) :
    Moves i s (t.setInput l y) := by
  refine ⟨by rw [State.setInput_pending, frame.pending, hu]; rfl, ?_⟩
  have same : (t.setInput l y).control = { s.control with inputs := s.control.inputs.set l y } := by
    have hc := frame.control
    subst hu
    simp only [State.control, Control.mk.injEq] at hc
    obtain ⟨h1, h2, h3, h4, h5, h6, h7⟩ := hc
    simp only [State.control, State.setInput_tb, State.setInput_wtb, State.setInput_dsp, State.setInput_lnu_outputs,
      State.setInput_hp, h1, h2, h3, h4, h6, h7]
    simp [State.setInput, h5]
  rw [same]
  exact .input l valid

theorem moves_inputEdge {i : Instr} (l : Fin 4) (k : EdgeKind) (s : State) :
    ∃ t, execInputEdge l k s = .next t ∧ Moves i s t := by
  refine ⟨_, rfl, ?_⟩
  split
  · split
    · refine moves_setInput s l _ ?_
      intro ok
      simp only [InputLine.ok, Bool.and_eq_true, decide_eq_true_iff] at ok ⊢
      exact ⟨⟨ok.1.1, raise_le_limit _ _⟩, ok.2⟩
    · set x : InputLine := { s.input l with lastEdge := some s.now, level := some (edgeLevel k), sampled := true } with hx
      have released := frame_releaseAll (s.setInput l x) l k s.now
      have line : ((s.setInput l x).releaseAll l k s.now).input l = x := by
        rw [State.input, released.inputs]
        exact State.input_setInput_self s l x
      have edge : Moves i s ((s.setInput l x).releaseAll l k s.now) :=
        (moves_setInput s l x (fun ok => ok)).before released
      show Moves i s (((s.setInput l x).releaseAll l k s.now).reportEdge l k s.now _)
      unfold State.reportEdge
      rw [line]
      split
      · split
        · refine Moves.setInput_again _ ?_ rfl (released.trans (frame_postCompletion _ _ _).toRequest.toAction)
          intro ok
          simp only [InputLine.ok, Bool.and_eq_true, decide_eq_true_iff] at ok ⊢
          exact ⟨⟨ok.1.1, Nat.zero_le _⟩, ok.2⟩
        · exact edge
      · exact edge
  · exact .refl s

theorem moves_gateOpen {i : Instr} (s : State) : ∃ t, execGateOpen s = .next t ∧ Moves i s t := by
  refine ⟨_, rfl, ?_⟩
  split
  · split
    · split
      · exact .of_action (frame_openGate s _ _ _)
      · exact .refl s
    · exact .refl s
  · exact .refl s

theorem moves_gateClose {i : Instr} (s : State) : ∃ t, execGateClose s = .next t ∧ Moves i s t := by
  refine ⟨_, rfl, ?_⟩
  split
  · split
    · split
      · exact .of_action (frame_closeGate s _ _ _)
      · exact .refl s
    · exact .refl s
  · exact .refl s

theorem moves_lnuStepEvent {i : Instr} (s : State) : ∃ t, execLnuStepEvent s = .next t ∧ Moves i s t := by
  refine ⟨_, rfl, ?_⟩
  split
  · exact .refl s
  · dsimp only
    split
    · exact Moves.before (by exact .quiet rfl rfl) (frame_sweepCalendar _)
    · exact .quiet rfl rfl

theorem inputConfigOf_spacing {e : Entry} {f : InputConfig} (h : inputConfigOf e = some f) :
    f.spacing ≤ Config.maxSpacing := by
  unfold inputConfigOf at h
  dsimp only at h
  split at h
  · cases h
  · split at h
    · split at h
      · cases h
        dsimp only
        omega
      · cases h
    · split at h
      · cases h
      · split at h
        · cases h
          dsimp only
          omega
        · cases h

theorem moves_configureInputLine {i : Instr} (c : Fin 8) (s : State) :
    ∃ t, execConfigureInputLine c s = .next t ∧ Moves i s t := by
  have configured (l : Fin 4) (f : InputConfig) (e : Entry) (hf : inputConfigOf e = some f) (k : Option EdgeSelect)
      (q : Option (Fin 16)) (both : k.isSome = q.isSome) :
      Moves i s (s.setInput l ((s.input l).configured f.enabled k q f.spacing)) := by
    refine moves_setInput s l _ (fun _ => ?_)
    simp [InputLine.ok, InputLine.configured, inputConfigOf_spacing hf, both]
  refine ⟨_, rfl, ?_⟩
  split
  · split
    · exact .answer s c _ _
    · split
      · exact .answer s c _ _
      · rename_i hf
        split
        · exact (configured _ _ _ hf _ _ rfl).answered c _ _
        · split
          · exact .answer s c _ _
          · split
            · exact (configured _ _ _ hf _ _ rfl).answered c _ _
            · exact .answer s c _ _
  · exact .refl s

theorem State.ready_of_requestOf {s : State} {c : Fin 8} {k : ReqKind} {p : Fin 16 × Entry}
    (h : s.requestOf c k = some p) : s.hp.condition = .ready :=
  ((s.requestOf_eq_some_iff c k p.1 p.2).1 h).1

theorem moves_grantLine {i : Instr} (c : Fin 8) (s : State) : ∃ t, execGrantLine c s = .next t ∧ Moves i s t := by
  refine ⟨_, rfl, ?_⟩
  split
  · rename_i hr
    have ready := State.ready_of_requestOf hr
    split
    · exact .answer s c _ _
    · rename_i l _
      dsimp only
      split
      · exact .answer s c _ _
      · split
        · exact .answer s c _ _
        · rename_i tenant
          split
          · exact .answer s c _ _
          · refine Moves.answered ?_ c _ _
            refine ⟨rfl, .output l (fun _ => ?_) (.inr ?_)⟩
            · simp only [OutputLine.ok, decide_eq_true_iff]
              omega
            · simp [State.control, ready]
  · exact .refl s

theorem moves_revokeLine {i : Instr} (c : Fin 8) (s : State) : ∃ t, execRevokeLine c s = .next t ∧ Moves i s t := by
  refine ⟨_, rfl, ?_⟩
  split
  · split
    · exact .answer s c _ _
    · rename_i l _
      exact Moves.answered (by exact ⟨rfl, .output l (fun _ => by simp [OutputLine.ok]) (.inl rfl)⟩) c _ _
  · exact .refl s

/-! ## Windows (chapter 7) -/

theorem moves_setWindow (c : Fin 8) (s : State) : ∃ t, execSetWindow c s = .next t ∧ Moves (.setWindow c) s t := by
  refine ⟨_, rfl, ?_⟩
  split
  · split
    · exact .answer s c _ _
    · split
      · exact .answer s c _ _
      · rename_i valid
        exact Moves.answered (by exact ⟨rfl, .setWindow _ valid⟩) c _ _
  · exact .refl s

theorem moves_clearWindow (c : Fin 8) (s : State) :
    ∃ t, execClearWindow c s = .next t ∧ Moves (.clearWindow c) s t := by
  refine ⟨_, rfl, ?_⟩
  split
  · split
    · exact .answer s c _ _
    · exact Moves.answered (by exact ⟨rfl, .clearWindow _⟩) c _ _
  · exact .refl s

/-! ## Rings and completions (chapters 8 and 9) -/

theorem moves_requestGrant {i : Instr} (s : State) : ∃ t, execRequestGrant s = .next t ∧ Moves i s t := by
  refine ⟨_, rfl, ?_⟩
  split
  · exact .of_request (frame_arbitrate s _)
  · exact .refl s

theorem frame_take (s : State) (c : Fin 8) (r : Fin 16) (h : Nat) (e : Entry) : RequestFrame s (s.take c r h e) :=
  (frame_setSq s r _).trans (frame_setCtx _ c _)

theorem moves_entryTaken {i : Instr} (c : Fin 8) (e : Entry) (s : State) :
    ∃ t, execEntryTaken c e s = .next t ∧ Moves i s t := by
  refine ⟨_, rfl, ?_⟩
  split
  · split
    · split
      · exact .of_request (frame_take s c _ _ e)
      · exact (Moves.of_request (frame_take s c _ _ e)).answered c _ _
    · exact .refl s
  · exact .refl s

theorem moves_entryFetchFailed {i : Instr} (c : Fin 8) (s : State) :
    ∃ t, execEntryFetchFailed c s = .next t ∧ Moves i s t := by
  refine ⟨_, rfl, ?_⟩
  split
  · exact .of_request (frame_failFetch s c _ _)
  · exact .refl s

theorem moves_entryFetchTimeout {i : Instr} (c : Fin 8) (s : State) :
    ∃ t, execEntryFetchTimeout c s = .next t ∧ Moves i s t := by
  refine ⟨_, rfl, ?_⟩
  split
  · split
    · exact Moves.before (by exact .quiet rfl rfl) (frame_failFetch (s.noteStale (.entry c)) c _ _).toAction
    · exact .refl s
  · exact .refl s

theorem moves_createSubmissionRing {i : Instr} (c : Fin 8) (s : State) :
    ∃ t, execCreateSubmissionRing c s = .next t ∧ Moves i s t := by
  refine ⟨_, rfl, ?_⟩
  split
  · split
    · exact .answer s c _ _
    · split
      · exact .answer s c _ _
      · exact (Moves.of_request (frame_setSq s _ _)).answered c _ _
  · exact .refl s

theorem frame_deleteSq (s : State) (n : Fin 16) : ActionFrame s (s.deleteSq n) :=
  (frame_setSq s n _).toAction.trans (frame_sweepRing _ n)

theorem moves_deleteSubmissionRing {i : Instr} (c : Fin 8) (s : State) :
    ∃ t, execDeleteSubmissionRing c s = .next t ∧ Moves i s t := by
  refine ⟨_, rfl, ?_⟩
  split
  · split
    · exact ((Moves.of_action (frame_deleteSq s _)).answered c _ _).before (frame_retireIfDone _ _).toAction
    · exact .answer s c _ _
    · exact .answer s c _ _
  · exact .refl s

theorem moves_createCompletionRing {i : Instr} (c : Fin 8) (s : State) :
    ∃ t, execCreateCompletionRing c s = .next t ∧ Moves i s t := by
  refine ⟨_, rfl, ?_⟩
  split
  · split
    · exact .answer s c _ _
    · split
      · exact .answer s c _ _
      · exact (Moves.of_completion (frame_setCq s _ _)).answered c _ _
  · exact .refl s

theorem moves_tuneCompletionRing {i : Instr} (c : Fin 8) (s : State) :
    ∃ t, execTuneCompletionRing c s = .next t ∧ Moves i s t := by
  refine ⟨_, rfl, ?_⟩
  split
  · split
    · exact .answer s c _ _
    · split
      · exact .answer s c _ _
      · exact .answer s c _ _
      · split
        · exact ((Moves.of_completion (frame_setCq s _ _)).answered c _ _).before
            (frame_notifyIfDue _ _).toRequest.toAction
        · exact .answer s c _ _
  · exact .refl s

theorem moves_deleteCompletionRing {i : Instr} (c : Fin 8) (s : State) :
    ∃ t, execDeleteCompletionRing c s = .next t ∧ Moves i s t := by
  refine ⟨_, rfl, ?_⟩
  split
  · split
    · exact (Moves.of_completion (frame_setCq s _ _)).answered c _ _
    · exact .answer s c _ _
    · exact .answer s c _ _
  · exact .refl s

theorem moves_cuWriteAcceptedByLink {i : Instr} (s : State) :
    ∃ t, execCuWriteAcceptedByLink s = .next t ∧ Moves i s t := by
  refine ⟨_, rfl, ?_⟩
  split
  · split
    · exact Moves.before (by exact .quiet rfl rfl) (frame_place _ _).toRequest.toAction
    · exact .refl s
  · exact .refl s

theorem moves_holdTimerExpired {i : Instr} (q : Fin 16) (s : State) :
    ∃ t, execHoldTimerExpired q s = .next t ∧ Moves i s t := by
  refine ⟨_, rfl, ?_⟩
  split
  · exact .of_completion (frame_notifyIfDue s q)
  · exact .refl s

theorem frame_fatalEngines (s : State) :
    ActionFrame s ((((s.fatalEngine 0).fatalEngine 1).fatalEngine 2).fatalEngine 3) :=
  (((frame_fatalEngine s 0).trans (frame_fatalEngine _ 1)).trans (frame_fatalEngine _ 2)).trans (frame_fatalEngine _ 3)

theorem moves_enterFatal {i : Instr} (s : State) : Moves i s s.enterFatal :=
  .after (frame_fatalEngines s) ⟨rfl, .fatal⟩

theorem moves_faultRing {i : Instr} (s : State) (w : CuWrite) : Moves i s (s.faultRing w) :=
  Moves.before (by exact .quiet rfl rfl) (frame_postNotice _ _ _ _ _ _).toRequest.toAction

theorem moves_completionWriteFailed {i : Instr} (s : State) :
    ∃ t, execCompletionWriteFailed s = .next t ∧ Moves i s t := by
  refine ⟨_, rfl, ?_⟩
  split
  · rename_i w _ rest _
    split
    · have dropped : ActionFrame s { s with hp := { s.hp with posted := rest } } :=
        ⟨rfl, rfl, rfl, rfl, rfl, rfl, rfl, rfl, rfl, rfl, rfl, rfl⟩
      refine Moves.after dropped ?_
      unfold State.cuWriteFails
      split
      · split
        · exact moves_enterFatal _
        · split
          · exact moves_faultRing _ w
          · exact .refl _
      · exact .refl _
    · exact .refl s
  · exact .refl s

/-! ## The host port (chapter 10) -/

theorem moves_doEnable {i : Instr} (s : State) : Moves i s s.doEnable := by
  unfold State.doEnable
  split
  · exact ⟨rfl, .condition (.inr rfl)⟩
  · exact ⟨rfl, .condition (.inl rfl)⟩

theorem frame_teardownEngines (s : State) : ActionFrame s s.teardownEngines :=
  (((frame_teardownEngine s 0).trans (frame_teardownEngine _ 1)).trans (frame_teardownEngine _ 2)).trans
    (frame_teardownEngine _ 3)

theorem moves_beginTeardown {i : Instr} (s : State) : Moves i s s.beginTeardown :=
  .after (frame_teardownEngines s) ⟨rfl, .teardown⟩

/-- The state with ENABLE written has the same controls. -/
theorem Moves.of_enableBit {i : Instr} {s t : State} {b : Bool}
    (m : Moves i { s with hp := { s.hp with enable := b } } t) : Moves i s t := ⟨m.pending, m.control⟩

theorem moves_writeEnable {i : Instr} (s : State) (b : Bool) : Moves i s (s.writeEnable b) := by
  unfold State.writeEnable
  dsimp only
  refine Moves.of_enableBit (b := b) ?_
  split
  · exact .refl _
  · split
    · exact moves_doEnable _
    · split
      · exact moves_beginTeardown _
      · exact .refl _
  · split
    · exact .refl _
    · exact moves_beginTeardown _
  · split
    · exact .refl _
    · exact moves_beginTeardown _

theorem moves_endTeardown {i : Instr} (s : State) : Moves i s s.endTeardown := by
  unfold State.endTeardown
  dsimp only
  split
  · refine ⟨?_, ?_⟩
    · exact (moves_doEnable (i := i) _).pending
    · unfold State.doEnable
      split
      · exact .teardownEnd (.inr rfl)
      · exact .teardownEnd (.inl rfl)
  · exact ⟨rfl, .teardownEnd (.inl rfl)⟩

theorem moves_teardownEnd {i : Instr} (s : State) : ∃ t, execTeardownEnd s = .next t ∧ Moves i s t := by
  refine ⟨_, rfl, ?_⟩
  split
  · exact moves_endTeardown s
  · exact .refl s

theorem moves_writeRegister {i : Instr} (s : State) (n : Nat) (d : Word64) : Moves i s (s.writeRegister n d) := by
  unfold State.writeRegister
  split
  · exact moves_writeEnable s _
  · exact .quiet rfl rfl
  · exact .quiet rfl rfl
  · exact .of_request (frame_writePost s d)
  · exact .of_completion (frame_writeRelease s d)
  · exact .refl s

theorem moves_registerWrite {i : Instr} (offset : BitVec 12) (a : Access) (d : Word64) (s : State) :
    ∃ t, execRegisterWrite offset a d s = .next t ∧ Moves i s t := by
  refine ⟨_, rfl, ?_⟩
  unfold State.writeWindow
  split
  · split
    · exact moves_writeRegister s _ d
    · exact .refl s
  · split
    · unfold State.writeRegisterHalf
      split
      · exact .quiet rfl rfl
      · exact .quiet rfl rfl
      · split
        · exact .refl s
        · exact moves_writeRegister s _ _
    · exact .refl s
  · exact .refl s

theorem moves_identify {i : Instr} (c : Fin 8) (s : State) : ∃ t, execIdentify c s = .next t ∧ Moves i s t := by
  refine ⟨_, rfl, ?_⟩
  split
  · split
    · exact .answer s c _ _
    · exact .of_request ((frame_setCtx s c _).trans (frame_queuePosted _ _).toRequest)
  · exact .refl s

theorem frame_placePrefix (s : State) (c : Fin 8) (a : Addr) (n : Nat) : CompletionFrame s (s.placePrefix c a n) := by
  unfold State.placePrefix
  split
  · exact .refl s
  · exact frame_place s _

theorem moves_identifyRecordIssued {i : Instr} (c : Fin 8) (n : Fin 64) (s : State) :
    ∃ t, execIdentifyRecordIssued c n s = .next t ∧ Moves i s t := by
  refine ⟨_, rfl, ?_⟩
  split
  · rename_i rest _ _
    split
    · dsimp only
      have dropped : Moves i s { s with hp := { s.hp with posted := rest } } := .quiet rfl rfl
      split
      · exact (dropped.before (frame_placePrefix _ _ _ _).toRequest.toAction).answered c _ _
      · exact (dropped.before (frame_place _ _).toRequest.toAction).answered c _ _
    · exact .refl s
  · exact .refl s

/-! ## All commands -/

/-- Every command answers a next state, leaves the queue alone, and makes at most one move of the controls. -/
theorem exec_moves : ∀ (i : Instr) (s : State), ∃ t, exec i s = .next t ∧ Moves i s t
  | .enable, s => ⟨_, rfl, moves_writeEnable s true⟩
  | .teardown, s => ⟨_, rfl, moves_writeEnable s false⟩
  | .teardownEnd, s => moves_teardownEnd s
  | .reset _, _ => ⟨_, rfl, rfl, .reset⟩
  | .busMasterEnableChange _, _ => ⟨_, rfl, .quiet rfl rfl⟩
  | .registerWrite o a d, s => moves_registerWrite o a d s
  | .timeLowRead, _ => ⟨_, rfl, .quiet rfl rfl⟩
  | .post d, s => ⟨_, rfl, .of_request (frame_writePost s d)⟩
  | .release d, s => ⟨_, rfl, .of_completion (frame_writeRelease s d)⟩
  | .requestGrant, s => moves_requestGrant s
  | .entryTaken c e, s => moves_entryTaken c e s
  | .entryFetchFailed c, s => moves_entryFetchFailed c s
  | .entryFetchTimeout c, s => moves_entryFetchTimeout c s
  | .staleReadData _, _ => ⟨_, rfl, .quiet rfl rfl⟩
  | .arm c, s => moves_arm c s
  | .listFetchDone c x, s => moves_listFetchDone c x s
  | .listFetchTimeout c, s => moves_listFetchTimeout c s
  | .cancel c, s => moves_cancel c s
  | .cancelAll c, s => moves_cancelAll c s
  | .amend c, s => moves_amend c s
  | .query c, s => moves_query c s
  | .setTenantLimits c, s => moves_setTenantLimits c s
  | .setTime c, s => moves_setTime c s
  | .stepTime c, s => moves_stepTime c s
  | .slewTime c, s => moves_slewTime c s
  | .readTimeState c, s => moves_readTimeState c s
  | .slewExpired, _ => ⟨_, rfl, rfl, .slewExpired⟩
  | .timebaseCeiling n, s => moves_timebaseCeiling n s
  | .holdDispatch c, s => moves_holdDispatch c s
  | .resumeDispatch c, s => moves_resumeDispatch c s
  | .setDispatch c, s => moves_setDispatch c s
  | .configureInputLine c, s => moves_configureInputLine c s
  | .grantLine c, s => moves_grantLine c s
  | .revokeLine c, s => moves_revokeLine c s
  | .setWindow c, s => moves_setWindow c s
  | .clearWindow c, s => moves_clearWindow c s
  | .createSubmissionRing c, s => moves_createSubmissionRing c s
  | .deleteSubmissionRing c, s => moves_deleteSubmissionRing c s
  | .createCompletionRing c, s => moves_createCompletionRing c s
  | .tuneCompletionRing c, s => moves_tuneCompletionRing c s
  | .deleteCompletionRing c, s => moves_deleteCompletionRing c s
  | .identify c, s => moves_identify c s
  | .identifyRecordIssued c n, s => moves_identifyRecordIssued c n s
  | .stage, s => ⟨_, rfl, .of_action (frame_stageHead s)⟩
  | .instanceStart e, s => moves_instanceStart e s
  | .budgetExpired e, s => moves_budgetExpired e s
  | .dspStepEvent, s => moves_dspStepEvent s
  | .readDataReturned e d, s => moves_readDataReturned e d s
  | .maskedWriteReadReturned e d, s => moves_maskedWriteReadReturned e d s
  | .pollReadReturned e d, s => moves_pollReadReturned e d s
  | .readFailed e, s => moves_readFailed e s
  | .readTimeout e, s => moves_readTimeout e s
  | .writeAcceptedByLink e, s => moves_writeAcceptedByLink e s
  | .pollSpacingElapsed e, s => moves_pollSpacingElapsed e s
  | .pollLimitExpired e, s => moves_pollLimitExpired e s
  | .waitElapsed e, s => moves_waitElapsed e s
  | .lineRequest e, s => moves_lineRequest e s
  | .inputEdge l k, s => moves_inputEdge l k s
  | .gateOpen, s => moves_gateOpen s
  | .gateClose, s => moves_gateClose s
  | .lnuStepEvent, s => moves_lnuStepEvent s
  | .cuWriteAcceptedByLink, s => moves_cuWriteAcceptedByLink s
  | .holdTimerExpired q, s => moves_holdTimerExpired q s
  | .completionWriteFailed, s => moves_completionWriteFailed s
  | .timebaseAdvance n, s => ⟨_, rfl, moves_period s n⟩

theorem Moves.of_exec {i : Instr} {s t : State} (h : exec i s = .next t) : Moves i s t := by
  obtain ⟨u, hu, m⟩ := exec_moves i s
  rw [h] at hu
  cases hu
  exact m

/-- A law that does not speak of the queue is kept by every step once every command keeps it. -/
theorem step_keeps {P : State → Prop} (queue : ∀ (s : State) (l : List Instr), P s → P { s with pending := l })
    (command : ∀ (i : Instr) (s t : State), P s → exec i s = .next t → P t) :
    ∀ s t : State, P s → step s = .next t → P t := by
  intro s t hs h
  unfold step at h
  split at h
  · cases h
    exact hs
  · exact command _ _ t (queue s _ hs) h

end Sys2Proof.Machine

/-! The laws of the clock, the windows, the lines and the parameters, each from the moves of the controls. -/

namespace Sys2Proof.Machine

open Sys2Proof

/-- Settles O1. -/
theorem stepRunsFrontCommand : Obligations.StepRunsFrontCommand := by
  refine ⟨fun s i rest front => ?_, fun s empty => ?_⟩
  · rw [step, front]
  · rw [step, empty]

/-- Settles O2, from the inversion over all commands. -/
theorem commandsKeepTheQueue : Obligations.CommandsKeepTheQueue := by
  intro i s
  obtain ⟨t, ht, m⟩ := exec_moves i s
  exact ⟨t, ht, m.pending⟩

/-! ## The clock (R1, R2, R5, R10) -/

/-- The law of the timebase, on the timebase alone. -/
def Timebase.Lawful (t : Timebase) : Prop :=
  t.value ≤ Config.maxTime ∧ t.fraction < Config.unitsPerNs ∧ t.slew.ok = true ∧ (t.state = .unset → t.slew = .none)

theorem timebaseLaw_iff (s : State) : TimebaseLaw s ↔ s.control.tb.Lawful := Iff.rfl

theorem Slew.ok_current {x : Slew} (h : x.ok = true) : x.current.ok = true := by
  unfold Slew.current
  split
  · rfl
  · exact h

theorem Slew.ok_countDown {x : Slew} (h : x.ok = true) : x.countDown.ok = true := by
  have hc := Slew.ok_current h
  unfold Slew.countDown
  split
  · rename_i r n hx
    rw [hx] at hc
    simp only [Slew.ok, Bool.and_eq_true, decide_eq_true_iff] at hc ⊢
    exact ⟨hc.1, by omega⟩
  · exact hc

theorem newSlew_ok {rate : Int} {ms : Nat} (low : -Config.maxRate ≤ rate) (high : rate ≤ Config.maxRate)
    (duration : ms ≤ 65535) : (newSlew rate ms).ok = true := by
  unfold newSlew
  split
  · rfl
  · rename_i nonzero
    have inRange : rateOk rate = true := decide_eq_true ⟨nonzero, low, high⟩
    split
    · exact inRange
    · simp only [Slew.ok, inRange, Bool.true_and, decide_eq_true_iff]
      omega

theorem Timebase.advance_slew (t : Timebase) : t.advance.slew = t.slew.countDown := by
  unfold Timebase.advance
  split <;> rfl

theorem Timebase.advance_state (t : Timebase) : t.advance.state = t.state := by
  unfold Timebase.advance
  split <;> rfl

theorem Timebase.Lawful.advance {t : Timebase} (h : t.Lawful) : t.advance.Lawful := by
  obtain ⟨-, -, slew, unset⟩ := h
  refine ⟨?_, ?_, ?_, ?_⟩
  · unfold Timebase.advance
    split
    · assumption
    · exact Nat.le_refl _
  · unfold Timebase.advance
    split
    · exact Nat.mod_lt _ (Nat.pow_pos (by decide))
    · exact Nat.pow_pos (by decide)
  · rw [t.advance_slew]
    exact Slew.ok_countDown slew
  · rw [t.advance_slew, t.advance_state]
    intro h
    rw [unset h]
    rfl

/-- An advance never takes the value back. -/
theorem Timebase.Lawful.value_le_advance {t : Timebase} (h : t.Lawful) : t.value ≤ t.advance.value := by
  unfold Timebase.advance
  split
  · exact Nat.le_add_right _ _
  · exact h.1

/-- Every move of the controls keeps the law of the timebase. -/
theorem ControlMove.timebase {i : Instr} {k k' : Control} (m : ControlMove i k k') (h : k.tb.Lawful) : k'.tb.Lawful := by
  have keep := h
  obtain ⟨value, fraction, slew, unset⟩ := h
  cases m with
  | setTime valid => exact ⟨valid, Nat.pow_pos (by decide), rfl, fun _ => rfl⟩
  | stepTime valid => exact ⟨valid, fraction, slew, unset⟩
  | slewTime running low high duration =>
    exact ⟨value, fraction, newSlew_ok low high duration, fun h => absurd h running⟩
  | slewExpired =>
    exact ⟨value, fraction, Slew.ok_current slew, fun h => by simp only [unset h, Slew.current]⟩
  | period => exact keep.advance
  | reset => exact ⟨by decide, by decide, rfl, fun _ => rfl⟩
  | _ => exact keep

/-- Only SET TIME, STEP TIME and RESET take the value back. -/
theorem ControlMove.value_le {i : Instr} {k k' : Control} (m : ControlMove i k k') (h : k.tb.Lawful)
    (noSet : ∀ c, i ≠ .setTime c) (noStep : ∀ c, i ≠ .stepTime c) (noReset : ∀ kind, i ≠ .reset kind) :
    k.tb.value ≤ k'.tb.value := by
  cases m with
  | setTime => exact absurd rfl (noSet _)
  | stepTime => exact absurd rfl (noStep _)
  | reset => exact absurd rfl (noReset _)
  | period => exact h.value_le_advance
  | _ => exact Nat.le_refl _

/-- Settles O10, from the moves of the controls. -/
theorem timebaseLawIsKept : Obligations.TimebaseLawIsKept := by
  refine ⟨step_keeps (fun _ _ h => h) (fun i s t law h => ?_), fun i s t law h => ?_⟩
  · exact (Moves.of_exec h).control.timebase law
  · exact (Moves.of_exec h).control.value_le law

/-! ## The windows (R139) -/

theorem windowOf_ok {e : Entry} {w : Window} (h : windowOf e = some w) : w.ok = true := by
  unfold windowOf at h
  dsimp only at h
  split at h
  · rename_i hc
    cases h
    simp only [Bool.and_eq_true] at hc
    obtain ⟨⟨⟨⟨⟨-, size⟩, power⟩, base⟩, tenants⟩, -⟩ := hc
    simp only [Window.ok, size, power, base, tenants, Bool.and_self]
  · cases h

/-- The law of the window table, index by index. -/
theorem all_ok_validWindows_iff {t : Vector (Option Window) 32} :
    (validWindows t).all Window.ok = true ↔ ∀ (n : Fin 32) (w : Window), t[n] = some w → w.ok = true := by
  simp only [List.all_eq_true, mem_validWindows_iff]
  exact ⟨fun h n w hw => h w ⟨n, hw⟩, fun h w ⟨n, hw⟩ => h n w hw⟩

/-- A table in which one window has been replaced keeps the law when the new one does. -/
theorem all_ok_set {t : Vector (Option Window) 32} {n : Fin 32} {x : Option Window}
    (h : (validWindows t).all Window.ok = true) (hx : ∀ w, x = some w → w.ok = true) :
    (validWindows (t.set n x)).all Window.ok = true := by
  rw [all_ok_validWindows_iff] at h ⊢
  intro m w hw
  by_cases hm : m = n
  · subst hm
    exact hx w (by simpa using hw)
  · refine h m w ?_
    rw [← hw]
    simp [Fin.val_inj, Ne.symm hm]

/-- Every move of the controls keeps the law of the windows. -/
theorem ControlMove.windows {i : Instr} {k k' : Control} (m : ControlMove i k k')
    (h : (validWindows k.wtb).all Window.ok = true) : (validWindows k'.wtb).all Window.ok = true := by
  cases m with
  | setWindow n valid => exact all_ok_set h (by rintro w ⟨⟩; exact windowOf_ok valid)
  | clearWindow => exact all_ok_set h nofun
  | reset => decide
  | _ => exact h

/-- A window's size and its base are multiples of 8: the size is a power of two from 64 on, the base a multiple of it. -/
theorem Window.multiples_of_ok {w : Window} (h : w.ok = true) : 8 ∣ w.size ∧ 8 ∣ w.base.toNat := by
  simp only [Window.ok, Bool.and_eq_true, decide_eq_true_iff, beq_iff_eq] at h
  obtain ⟨⟨⟨⟨large, -⟩, power⟩, base⟩, -⟩ := h
  have exponent : 3 ≤ w.size.log2 := by
    by_contra small
    have : 2 ^ w.size.log2 < 2 ^ 3 := Nat.pow_lt_pow_right (by omega) (by omega)
    omega
  have size : 8 ∣ w.size := by
    rw [← power]
    exact pow_dvd_pow 2 exponent
  exact ⟨size, size.trans (Nat.dvd_of_mod_eq_zero base)⟩

/-- R139: no naturally aligned access of 4 or 8 bytes crosses the border of a window. -/
theorem Window.coversAny_eq_coversAll {w : Window} {a : Addr} {len : Nat} (ok : w.ok = true) (hlen : len = 4 ∨ len = 8)
    (aligned : a.toNat % len = 0) : w.coversAny a len = w.coversAll a len := by
  obtain ⟨⟨size, hs⟩, ⟨base, hb⟩⟩ := w.multiples_of_ok ok
  have pos := w.size_pos_of_ok ok
  simp only [Window.coversAny, Window.coversAll, decide_eq_decide]
  rcases hlen with rfl | rfl <;> omega

/-- Settles O13: the step half from the moves of the controls, the coverage half from the alignment of the windows. -/
theorem windowLawIsKept : Obligations.WindowLawIsKept := by
  refine ⟨step_keeps (fun _ _ h => h) (fun i s t law h => ?_), fun s w a len law valid hlen aligned => ?_⟩
  · exact (Moves.of_exec h).control.windows law
  · exact Window.coversAny_eq_coversAll (List.all_eq_true.mp law w valid) hlen aligned

/-! ## Output lines, parameters and input lines (R131, R133, R135, R136, R90, R117) -/

theorem all_toList_iff {α : Type} {n : Nat} {v : Vector α n} {p : α → Bool} :
    v.toList.all p = true ↔ ∀ (i : Nat) (h : i < n), p v[i] = true := by
  rw [List.all_eq_true]
  constructor
  · exact fun h i hi => h _ (by simp)
  · intro h x hx
    obtain ⟨i, hi, rfl⟩ := Vector.mem_iff_getElem.1 (Vector.mem_toList_iff.1 hx)
    exact h i hi

/-- Replacing one entry of a table keeps what holds of every entry when the new entry has it from the old one. -/
theorem all_toList_set {α : Type} {n : Nat} {v : Vector α n} {p : α → Bool} (i : Fin n) (x : α)
    (h : v.toList.all p = true) (hx : p v[i] = true → p x = true) : (v.set i x).toList.all p = true := by
  rw [all_toList_iff] at h ⊢
  intro j hj
  by_cases hij : i.val = j
  · subst hij
    simpa using hx (h i i.isLt)
  · rw [Vector.getElem_set_ne _ _ hij]
    exact h j hj

/-- Changing every entry keeps what each changed entry has. -/
theorem all_toList_map {α β : Type} {n : Nat} {v : Vector α n} {p : α → Bool} {q : β → Bool} (f : α → β)
    (h : v.toList.all p = true) (hf : ∀ x, p x = true → q (f x) = true) : (v.map f).toList.all q = true := by
  rw [all_toList_iff] at h ⊢
  intro j hj
  rw [Vector.getElem_map]
  exact hf _ (h j hj)

/-- The law of the output lines, on the controls alone. -/
def Control.OutputsLawful (k : Control) : Prop :=
  k.outputs.toList.all OutputLine.ok = true
    ∧ (k.condition = .fatal ∨ k.condition = .teardown → k.outputs.toList.all (fun x => x.level == x.safe) = true)

theorem OutputLine.ok_safe (x : OutputLine) (h : x.ok = true) : OutputLine.ok { x with level := x.safe } = true := by
  unfold OutputLine.ok at h ⊢
  dsimp only
  split
  · simp
  · simpa [‹_›] using h

/-- With every line at its safe level the law holds in any condition. -/
theorem Control.OutputsLawful.safe {k k' : Control} (h : k.OutputsLawful) (hk : k'.outputs = k.safe.outputs) :
    k'.OutputsLawful := by
  rw [Control.OutputsLawful, hk]
  exact ⟨all_toList_map _ h.1 OutputLine.ok_safe, fun _ => all_toList_map _ h.1 (fun _ _ => by simp)⟩

theorem Control.OutputsLawful.condition {k k' : Control} (h : k.OutputsLawful) (hk : k'.outputs = k.outputs)
    (valid : k'.condition = .off ∨ k'.condition = .ready) : k'.OutputsLawful := by
  rw [Control.OutputsLawful, hk]
  exact ⟨h.1, fun stopped => by rcases valid with h | h <;> simp [h] at stopped⟩

/-- Every move of the controls keeps the law of the output lines. -/
theorem ControlMove.outputs {i : Instr} {k k' : Control} (m : ControlMove i k k') (h : k.OutputsLawful) :
    k'.OutputsLawful := by
  cases m with
  | output l valid safe =>
    refine ⟨all_toList_set l _ h.1 valid, fun stopped => all_toList_set l _ (h.2 stopped) (fun _ => ?_)⟩
    rcases safe with safe | ⟨notFatal, notTeardown⟩
    · simpa using safe
    · rcases stopped with stopped | stopped
      · exact absurd stopped notFatal
      · exact absurd stopped notTeardown
  | fatal => exact h.safe rfl
  | teardown => exact h.safe rfl
  | condition valid => exact h.condition rfl valid
  | teardownEnd valid => exact h.condition rfl valid
  | reset => exact ⟨by decide, by decide⟩
  | _ => exact h

/-- The law of the parameters, on the controls alone. -/
def Control.ParametersLawful (k : Control) : Prop :=
  2 ≤ k.lead ∧ k.lead ≤ 1000 ∧ 1 ≤ k.budget ∧ k.budget ≤ 1000 ∧ k.inputs.toList.all InputLine.ok = true

theorem InputLine.ok_without_report {x : InputLine} (h : x.ok = true) :
    InputLine.ok { x with report := none, reportRing := none, lastEdge := none, suppressed := 0 } = true := by
  simp only [InputLine.ok, Bool.and_eq_true, decide_eq_true_iff] at h ⊢
  exact ⟨⟨h.1.1, Nat.zero_le _⟩, rfl⟩

/-- Every move of the controls keeps the ranges of the parameters. -/
theorem ControlMove.parameters {i : Instr} {k k' : Control} (m : ControlMove i k k') (h : k.ParametersLawful) :
    k'.ParametersLawful := by
  have keep := h
  obtain ⟨lead1, lead2, budget1, budget2, inputs⟩ := h
  cases m with
  | setDispatch valid =>
    obtain ⟨h1, h2, h3, h4⟩ := valid
    exact ⟨h1, h2, h3, h4, inputs⟩
  | input l valid => exact ⟨lead1, lead2, budget1, budget2, all_toList_set l _ inputs valid⟩
  | period => exact ⟨lead1, lead2, budget1, budget2, all_toList_map _ inputs (fun _ h => h)⟩
  | teardown =>
    exact ⟨lead1, lead2, budget1, budget2, all_toList_map _ inputs (fun _ h => InputLine.ok_without_report h)⟩
  | teardownEnd => exact ⟨lead1, lead2, budget1, budget2, all_toList_map _ inputs (fun _ h => h)⟩
  | reset => exact ⟨by decide, by decide, by decide, by decide, by decide⟩
  | _ => exact keep

/-- Settles O44, from the moves of the controls. -/
theorem lineAndParameterLawsAreKept : Obligations.LineAndParameterLawsAreKept := by
  refine ⟨step_keeps (fun _ _ h => h) (fun i s t law h => ?_), step_keeps (fun _ _ h => h) (fun i s t law h => ?_)⟩
  · exact (Moves.of_exec h).control.outputs law
  · exact (Moves.of_exec h).control.parameters law

end Sys2Proof.Machine

/-! What a command can do to the slots and to the places that hold them, as a chain of moves that each leave every slot in
one place. The laws of the store, of the order and of the places follow from the moves. -/

namespace Sys2Proof.Machine

open Sys2Proof

/-! ## The slots and their places -/

/-- The slot whose operation list a context fetches. -/
def ReqContext.fetching? : ReqContext → Option Nat
  | .effect _ _ _ (.listFetch id _ _ _) => some id
  | _ => none

/-- What an engine holds: its state, its slot and the due time it was bound with. -/
def Engine.hold (x : Engine) : EngineState × Nat × Nat := (x.state, x.slot, x.due)

/-- The slots, the quotas and everything that can hold a slot. -/
@[ext] structure Board where
  slots : List (Nat × Slot)
  quotas : Fin 16 → Nat
  schedule : List TimedEntry
  calendar : List TimedEntry
  listen : Fin 4 → List Nat
  engines : Fin 4 → EngineState × Nat × Nat
  fetching : Fin 8 → Option Nat

def State.board (s : State) : Board :=
  { slots := s.ast.slots
    quotas := fun n => s.ast.quotas[n]
    schedule := s.dsp.schedule
    calendar := s.lnu.calendar
    listen := fun l => s.lnu.listen[l]
    engines := fun e => (s.engine e).hold
    fetching := fun c => (s.ctx c).fetching? }

namespace Board

def put (b : Board) (id : Nat) (x : Slot) : Board := { b with slots := slotPut b.slots id x }

def unplace (b : Board) (gone : Nat → Bool) : Board :=
  { b with
    schedule := b.schedule.filter (fun t => !gone t.slot)
    calendar := b.calendar.filter (fun t => !gone t.slot)
    listen := fun l => (b.listen l).filter (fun id => !gone id) }

def free (b : Board) (id : Nat) : Board := { b.unplace (fun k => k == id) with slots := slotDel b.slots id }

def schedulePut (b : Board) (h : TimedEntry) : Board := { b with schedule := insertTimed h b.schedule }

def calendarPut (b : Board) (h : TimedEntry) : Board := { b with calendar := insertTimed h b.calendar }

def enterSchedule (b : Board) (id : Nat) (x : Slot) (due : Nat) (n : Word64) : Board :=
  (b.put id { x with state := .armed, due := due, seq := n }).schedulePut { slot := id, time := due, seq := n }

def enterCalendar (b : Board) (id : Nat) (x : Slot) (st : SlotState) (key : Nat) (n : Word64) : Board :=
  (b.put id { x with state := st, seq := n }).calendarPut { slot := id, time := key, seq := n }

def listenPush (b : Board) (l : Fin 4) (id : Nat) : Board := { b with listen := Function.update b.listen l (b.listen l ++ [id]) }

def setEngine (b : Board) (e : Fin 4) (v : EngineState × Nat × Nat) : Board :=
  { b with engines := Function.update b.engines e v }

def setFetch (b : Board) (c : Fin 8) (o : Option Nat) : Board := { b with fetching := Function.update b.fetching c o }

def sweep (b : Board) (r : Fin 16) : Board :=
  { b.unplace (fun id => b.slots.any (fun p => p.1 == id && sweepRemoves r p.2)) with slots := sweepSlots r b.slots }

/-- A running engine holds the slot. -/
def heldRunning (b : Board) (id : Nat) : Bool :=
  ([0, 1, 2, 3] : List (Fin 4)).any (fun e => (b.engines e).1 == .running && (b.engines e).2.1 == id)

/-- The slots of running engines stay, and no other place holds anything (R63, R94). -/
def tornDown (b : Board) : Board :=
  { b with
    slots := b.slots.filter (fun p => b.heldRunning p.1), schedule := [], calendar := [], listen := fun _ => []
    fetching := fun _ => none }

theorem setFetch_of_none {b : Board} {c : Fin 8} (h : b.fetching c = none) : b.setFetch c none = b := by
  ext1 <;> try rfl
  exact Function.update_eq_self_iff.2 h.symm

theorem setEngine_of_eq {b : Board} {e : Fin 4} {v : EngineState × Nat × Nat} (h : b.engines e = v) :
    b.setEngine e v = b := by
  ext1 <;> try rfl
  exact Function.update_eq_self_iff.2 h.symm

end Board

/-- What an action keeps through every change of its slot: its ring, its tag and its tenant (R41). -/
structure Slot.SameAction (x y : Slot) : Prop where
  ring : y.ring = x.ring
  tag : y.tag = x.tag
  tenant : y.tenant = x.tenant

/-- What places look at in a slot. -/
structure Slot.SamePlace (x y : Slot) : Prop extends x.SameAction y where
  state : y.state = x.state
  gate : y.gate = x.gate
  due : y.due = x.due
  seq : y.seq = x.seq

/-- A new action may take this slot: the number is free and in range once the numbers rise, no action of its ring has its
tag, and its tenant's quota has room (R49). -/
structure Board.Admits (b : Board) (id : Nat) (x : Slot) : Prop where
  number : Rising b.slots → slotGet b.slots id = none ∧ id < Config.slotCount
  tag : ∀ p ∈ b.slots, ¬ (p.2.ring = x.ring ∧ p.2.tag = x.tag)
  quota : ∀ n : Fin 16, n.val = x.tenant → b.slots.countP (fun p => p.2.tenant == n.val) < b.quotas n

/-- The moves of the slots among their places. A tag names its slot once the numbers rise. -/
inductive BoardMove : Board → Board → Prop
  | armSchedule {b : Board} {id : Nat} {x : Slot} (due : Nat) (n : Word64) (admits : b.Admits id x) :
      BoardMove b (b.enterSchedule id x due n)
  | armCalendar {b : Board} {id : Nat} {x : Slot} {g : Gate} (n : Word64) (admits : b.Admits id x)
      (gate : x.gate = some g) : BoardMove b (b.enterCalendar id x .awaiting g.openTime n)
  | armFetch {b : Board} {id : Nat} {x : Slot} {c : Fin 8} (admits : b.Admits id x) (state : x.state = .pending)
      (quiet : b.fetching c = none) : BoardMove b ((b.put id x).setFetch c (some id))
  | fetchFails {b : Board} {id : Nat} {c : Fin 8} (fetch : b.fetching c = some id) :
      BoardMove b ((b.free id).setFetch c none)
  | fetchSchedule {b : Board} {id : Nat} {c : Fin 8} {x y : Slot} (due : Nat) (n : Word64)
      (fetch : b.fetching c = some id) (slot : slotGet b.slots id = some x) (same : x.SameAction y) :
      BoardMove b ((b.enterSchedule id y due n).setFetch c none)
  | fetchCalendar {b : Board} {id : Nat} {c : Fin 8} {x y : Slot} {g : Gate} (n : Word64)
      (fetch : b.fetching c = some id) (slot : slotGet b.slots id = some x) (same : x.SameAction y)
      (gate : y.gate = some g) : BoardMove b ((b.enterCalendar id y .awaiting g.openTime n).setFetch c none)
  | remove {b : Board} {id : Nat} {x : Slot} (slot : Rising b.slots → slotGet b.slots id = some x) (state : x.state.removable = true) :
      BoardMove b (b.free id)
  | change {b : Board} {id : Nat} {x y : Slot} (slot : Rising b.slots → slotGet b.slots id = some x) (same : x.SamePlace y) :
      BoardMove b (b.put id y)
  | sweep {b : Board} (r : Fin 16) : BoardMove b (b.sweep r)
  | reenter {b : Board} {id : Nat} {x y : Slot} (due : Nat) (n : Word64)
      (slot : Rising b.slots → slotGet b.slots id = some x) (state : x.state.removable = true) (same : x.SameAction y) :
      BoardMove b ((b.unplace (fun k => k == id)).enterSchedule id y due n)
  | openGate {b : Board} {id : Nat} {x : Slot} {g : Gate} (n : Word64) (slot : slotGet b.slots id = some x)
      (state : x.state = .awaiting) (gate : x.gate = some g) :
      BoardMove b
        (((b.unplace (fun k => k == id)).enterCalendar id x .listening g.closeTime n).listenPush g.line id)
  | dropSchedule {b : Board} {h : TimedEntry} {rest : List TimedEntry} (head : b.schedule = h :: rest)
      (state : ∀ x, slotGet b.slots h.slot = some x → x.state ≠ .armed) : BoardMove b { b with schedule := rest }
  | dropCalendar {b : Board} {h : TimedEntry} {rest : List TimedEntry} (head : b.calendar = h :: rest)
      (state : ∀ x g, slotGet b.slots h.slot = some x → x.gate = some g → x.state ≠ .awaiting ∧ x.state ≠ .listening) :
      BoardMove b { b with calendar := rest }
  | stage {b : Board} {h : TimedEntry} {rest : List TimedEntry} {x : Slot} {e : Fin 4} (head : b.schedule = h :: rest)
      (slot : slotGet b.slots h.slot = some x) (state : x.state = .armed) (idle : (b.engines e).1 = .idle) :
      BoardMove b
        (({ b with schedule := rest }.put h.slot { x with state := .staged }).setEngine e (.bound, h.slot, h.time))
  | start {b : Board} {id due : Nat} {x : Slot} {e : Fin 4} (v : Word64) (engine : b.engines e = (.bound, id, due))
      (slot : slotGet b.slots id = some x) :
      BoardMove b ((b.put id { x with state := .firing, capture := v }).setEngine e (.running, id, due))
  | stray {b : Board} {st : EngineState} {id due : Nat} {e : Fin 4} (engine : b.engines e = (st, id, due))
      (busy : st ≠ .idle) (slot : slotGet b.slots id = none) : BoardMove b (b.setEngine e Engine.released.hold)
  | endFree {b : Board} {st : EngineState} {id due : Nat} {e : Fin 4} (engine : b.engines e = (st, id, due))
      (busy : st ≠ .idle) : BoardMove b ((b.setEngine e Engine.released.hold).free id)
  | endAgain {b : Board} {st : EngineState} {id due : Nat} {x y : Slot} {e : Fin 4} (next : Nat) (n : Word64)
      (engine : b.engines e = (st, id, due)) (busy : st ≠ .idle) (slot : slotGet b.slots id = some x)
      (same : x.SameAction y) : BoardMove b ((b.setEngine e Engine.released.hold).enterSchedule id y next n)
  | unbind {b : Board} {id due : Nat} {x : Slot} {e : Fin 4} (engine : b.engines e = (.bound, id, due))
      (slot : slotGet b.slots id = some x) :
      BoardMove b (((b.put id { x with state := .armed }).setEngine e Engine.released.hold).schedulePut
        { slot := id, time := due, seq := x.seq })
  | halt {b : Board} {st : EngineState} {id due : Nat} {e : Fin 4} (engine : b.engines e = (st, id, due))
      (state : st = .bound ∨ st = .running) : BoardMove b (b.setEngine e (.halted, id, due))
  | teardown {b : Board} (engines : ∀ e, (b.engines e).1 = .idle ∨ (b.engines e).1 = .running) :
      BoardMove b b.tornDown
  | quota {b : Board} (n : Fin 16) (q : Nat) (valid : q ≤ Config.maxQuota)
      (holdings : b.slots.countP (fun p => p.2.tenant == n.val) ≤ q) :
      BoardMove b { b with quotas := Function.update b.quotas n q }
  | reset {b : Board} : BoardMove b State.reset.board

/-! ## The view of an update -/

section view

variable (s : State)

@[simp] theorem board_slots : s.board.slots = s.ast.slots := rfl
@[simp] theorem board_schedule : s.board.schedule = s.dsp.schedule := rfl
@[simp] theorem board_calendar : s.board.calendar = s.lnu.calendar := rfl
@[simp] theorem board_engines (e : Fin 4) : s.board.engines e = (s.engine e).hold := rfl
@[simp] theorem board_fetching (c : Fin 8) : s.board.fetching c = (s.ctx c).fetching? := rfl

theorem CompletionFrame.board {s t : State} (h : CompletionFrame s t) : t.board = s.board := by
  simp only [State.board, State.engine, State.ctx, h.ast, h.dsp, h.lnu, h.rqe]

theorem board_setSq (r : Fin 16) (x : SqContext) : (s.setSq r x).board = s.board := rfl

theorem board_setCtx (c : Fin 8) (x : ReqContext) : (s.setCtx c x).board = s.board.setFetch c x.fetching? := by
  ext1 <;> try rfl
  funext d
  by_cases h : d = c
  · subst h
    simp [Board.setFetch, State.board]
  · simp [Board.setFetch, State.board, Function.update_of_ne h, State.ctx_setCtx_of_ne s x h]

theorem board_setEngine (e : Fin 4) (x : Engine) : (s.setEngine e x).board = s.board.setEngine e x.hold := by
  ext1 <;> try rfl
  funext f
  by_cases h : f = e
  · subst h
    simp [Board.setEngine, State.board]
  · simp [Board.setEngine, State.board, Function.update_of_ne h, State.engine_setEngine_of_ne s x h]

/-- An engine that holds what it held before. -/
theorem board_setEngine_same {e : Fin 4} {x : Engine} (h : x.hold = (s.engine e).hold) : (s.setEngine e x).board = s.board :=
  (board_setEngine s e x).trans (Board.setEngine_of_eq h.symm)

theorem board_setSlot (id : Nat) (x : Slot) : (s.setSlot id x).board = s.board.put id x := rfl

theorem board_unplace (gone : Nat → Bool) : (s.unplace gone).board = s.board.unplace gone := by
  ext1 <;> try rfl
  funext l
  simp [State.board, Board.unplace, State.unplace]

theorem board_freeSlot (id : Nat) : (s.freeSlot id).board = s.board.free id := by
  have h := board_unplace s (fun k => k == id)
  exact Board.ext rfl rfl rfl rfl (congrArg Board.listen h :) rfl rfl

theorem board_sweepRing (r : Fin 16) : (s.sweepRing r).board = s.board.sweep r := by
  have h := board_unplace s (fun id => s.ast.slots.any (fun p => p.1 == id && sweepRemoves r p.2))
  exact Board.ext rfl rfl rfl rfl (congrArg Board.listen h :) rfl rfl

theorem board_enterSchedule (id : Nat) (x : Slot) (due : Nat) :
    (s.enterSchedule id x due).board = s.board.enterSchedule id x due s.ast.seq := rfl

theorem board_enterCalendar (id : Nat) (x : Slot) (st : SlotState) (key : Nat) :
    (s.enterCalendar id x st key).board = s.board.enterCalendar id x st key s.ast.seq := rfl

theorem board_retireIfDone (r : Fin 16) : (s.retireIfDone r).board = s.board := by
  unfold State.retireIfDone
  split
  · exact (frame_postNotice _ _ _ _ _ _).board
  · rfl

theorem board_freeContext (c : Fin 8) (r : Fin 16) : (s.freeContext c r).board = s.board.setFetch c none :=
  board_setCtx s c .free

theorem board_completeRequest (c : Fin 8) (r : Fin 16) (x : Result) :
    (s.completeRequest c r x).board = s.board.setFetch c none := by
  rw [State.completeRequest, board_retireIfDone, board_freeContext, (frame_writeRequestCompletion s _ _).board]

theorem board_setPath (e : Fin 4) (i : Nat) (p : OpPath) : (s.setPath e i p).board = s.board :=
  board_setEngine_same s rfl

theorem board_waitForLink (e : Fin 4) (i : Nat) (v : Word64) : (s.waitForLink e i v).board = s.board :=
  (frame_queuePosted _ _).board.trans (board_setPath s e i _)

theorem board_issueRead (e : Fin 4) (i : Nat) (a : Addr) (w : Width) : (s.issueRead e i a w).board = s.board :=
  (frame_placeIfMaster _ _).board.trans (board_setPath s e i _)

theorem board_openGate (id : Nat) (x : Slot) (g : Gate) :
    (s.openGate id x g).board =
      ((s.board.unplace (fun k => k == id)).enterCalendar id x .listening g.closeTime s.ast.seq).listenPush g.line id := by
  rw [← board_unplace]
  ext1 <;> try rfl
  funext l
  by_cases h : l = g.line
  · subst h
    simp [State.board, State.openGate, State.enterCalendar, Board.listenPush, Board.enterCalendar, Board.calendarPut,
      Board.put]
  · simp [State.board, State.openGate, State.enterCalendar, Board.listenPush, Board.enterCalendar, Board.calendarPut,
      Board.put, Function.update_of_ne h, Fin.val_inj, Ne.symm h]

end view

/-! ## Chains of moves -/

/-- From `s` to `t` the slots go through moves only. -/
def Acts (s t : State) : Prop := Relation.ReflTransGen BoardMove s.board t.board

theorem Acts.of_eq {s t : State} (h : t.board = s.board) : Acts s t := by
  rw [Acts, h]

theorem Acts.refl (s : State) : Acts s s := .of_eq rfl

theorem Acts.trans {s t u : State} (h : Acts s t) (k : Acts t u) : Acts s u := Relation.ReflTransGen.trans h k

theorem Acts.move {s t : State} {b : Board} (m : BoardMove s.board b) (h : t.board = b) : Acts s t := by
  rw [Acts, h]
  exact .single m

theorem Acts.of_completion {s t : State} (h : CompletionFrame s t) : Acts s t := .of_eq h.board

/-- A context that fetches no list is freed without any effect on the slots. -/
theorem Acts.answered {s u : State} (h : Acts s u) {c : Fin 8} (quiet : (u.ctx c).fetching? = none) (r : Fin 16)
    (x : Result) : Acts s (u.completeRequest c r x) :=
  h.trans (.of_eq ((board_completeRequest u c r x).trans (Board.setFetch_of_none quiet)))

/-- A request that waits to take effect fetches no list. -/
theorem State.fetching_of_requestOf {s : State} {c : Fin 8} {k : ReqKind} {p : Fin 16 × Entry}
    (h : s.requestOf c k = some p) : (s.ctx c).fetching? = none := by
  obtain ⟨-, request, -⟩ := (s.requestOf_eq_some_iff c k p.1 p.2).1 h
  cases hc : s.ctx c with
  | free => rfl
  | fetch r h t l => rfl
  | effect r h e p =>
    rw [hc] at request
    cases p with
    | waiting => rfl
    | listFetch => cases request
    | identity => rfl

/-- A request that takes effect without touching the slots is answered. -/
theorem Acts.answerAfter {s u : State} {c : Fin 8} {k : ReqKind} {p : Fin 16 × Entry} (same : u.board = s.board)
    (h : s.requestOf c k = some p) (r : Fin 16) (x : Result) : Acts s (u.completeRequest c r x) := by
  refine (Acts.of_eq same).answered ?_ r x
  have := congrFun (congrArg Board.fetching same) c
  exact this.trans (State.fetching_of_requestOf h)

theorem Acts.answer {s : State} {c : Fin 8} {k : ReqKind} {p : Fin 16 × Entry} (h : s.requestOf c k = some p) (r : Fin 16)
    (x : Result) : Acts s (s.completeRequest c r x) := .answerAfter rfl h r x

/-! ## Staging and the end of what an engine runs -/

theorem acts_stageHead (s : State) : Acts s s.stageHead := by
  rcases s.stageHead_cases with ⟨hk, -⟩ | ⟨h, rest, e, hs, -, -, -, he, -, ⟨hx, hk⟩ | ⟨x, hx, ha, hk⟩⟩
  · rw [hk]
    exact .refl s
  · rw [hk]
    exact .move (.dropSchedule hs hx) rfl
  · rw [hk]
    exact .move (.stage hs hx ha he) (by rw [board_setEngine]; rfl)

theorem acts_stageUpTo : ∀ (n : Nat) (s : State), Acts s (State.stageUpTo n s)
  | 0, s => .refl s
  | n + 1, s => (acts_stageHead s).trans (acts_stageUpTo n _)

theorem acts_stageAll (s : State) : Acts s s.stageAll := acts_stageUpTo _ s

theorem Slot.SameAction.refl (x : Slot) : x.SameAction x := ⟨rfl, rfl, rfl⟩

theorem acts_endInstance {s : State} {e : Fin 4} (busy : (s.engine e).state ≠ .idle) (st : Status) (i : Nat) :
    Acts s (s.endInstance e st i) := by
  have engine : s.board.engines e = ((s.engine e).state, (s.engine e).slot, (s.engine e).due) := rfl
  unfold State.endInstance
  split
  · rename_i none
    exact .move (.stray engine busy none) (board_setEngine s e _)
  · rename_i x slot
    dsimp only
    refine Acts.trans ?_ (acts_stageHead _)
    generalize endReport x (s.engine e).due (s.engine e).late st s.now = r
    have reported : (if r.posted then
        s.postCompletion (s.sq x.ring).cq (fireCompletion x (s.engine e) st i r) else s).board = s.board := by
      split
      · exact (frame_postCompletion s _ _).board
      · rfl
    generalize (if r.posted then
      s.postCompletion (s.sq x.ring).cq (fireCompletion x (s.engine e) st i r) else s) = t at reported ⊢
    split
    · refine .move (.endFree engine busy) ?_
      rw [State.endSlot, board_retireIfDone, board_freeSlot, board_setEngine, reported]
    · refine .move (.endAgain r.nextDue t.ast.seq engine busy slot (y := x.continued r) ⟨rfl, rfl, rfl⟩) ?_
      rw [board_enterSchedule, board_setEngine, reported]
      rfl

theorem acts_afterStop {s : State} {e : Fin 4} (k : Stop)
    (busy : (s.engine e).state ≠ .idle) (halts : k = .fatal → (s.engine e).state ≠ .halted) : Acts s (s.afterStop e k) := by
  have engine : s.board.engines e = ((s.engine e).state, (s.engine e).slot, (s.engine e).due) := rfl
  cases k with
  | budget => exact acts_endInstance busy _ _
  | teardown => exact .move (.endFree engine busy) (by rw [State.afterStop, board_freeSlot, board_setEngine])
  | fatal =>
    refine .move (.halt engine ?_) (by rw [State.afterStop, board_setEngine]; rfl)
    have := halts rfl
    cases h : (s.engine e).state <;> simp_all

theorem engine_running_ne {x : Engine} (h : x.state = .running) : x.state ≠ .idle ∧ x.state ≠ .halted := by
  rw [h]
  decide

theorem acts_afterStop_running {s : State} {e : Fin 4} (k : Stop) (running : (s.engine e).state = .running) :
    Acts s (s.afterStop e k) :=
  acts_afterStop k (engine_running_ne running).1 (fun _ => (engine_running_ne running).2)

theorem acts_stopRunning {s : State} {e : Fin 4} (k : Stop) (running : (s.engine e).state = .running) :
    Acts s (s.stopRunning e k) := by
  unfold State.stopRunning
  split
  · exact .of_eq (board_setEngine_same s rfl)
  · exact .of_eq (board_setEngine_same s rfl)
  · exact (Acts.of_completion (frame_dropOpWrite s e)).trans (acts_afterStop_running (s := s.dropOpWrite e) k running)
  all_goals exact acts_afterStop_running k running

theorem acts_fatalEngine (s : State) (e : Fin 4) : Acts s (s.fatalEngine e) := by
  unfold State.fatalEngine
  split
  · exact .refl s
  · exact .refl s
  · rename_i bound
    refine .move (.halt (e := e) (st := .bound) ?_ (.inl rfl)) (board_setEngine s e _)
    rw [board_engines, Engine.hold, bound]
    rfl
  · exact acts_stopRunning _ ‹_›

theorem acts_teardownEngine (s : State) (e : Fin 4) : Acts s (s.teardownEngine e) := by
  unfold State.teardownEngine
  split
  · exact .refl s
  · rename_i halted
    exact acts_afterStop _ (by rw [halted]; decide) nofun
  · rename_i bound
    exact acts_afterStop _ (by rw [bound]; decide) nofun
  · exact acts_stopRunning _ ‹_›

/-! ## Running operations -/

theorem acts_runOps (e : Fin 4) (tenant : Nat) : ∀ (ops : List Op) (i : Nat) (s : State),
    (s.engine e).state = .running → Acts s (State.runOps e tenant i ops s)
  | [], i, s, running => acts_endInstance (engine_running_ne running).1 _ _
  | op :: rest, i, s, running => by
    have refuse := acts_endInstance (engine_running_ne running).1 .accessDenied i
    have issued (a : Addr) (w : Width) (d : Word64) (j : Nat) :
        Acts s (State.runOps e tenant j rest (s.issueOpWrite e a w d)) := by
      have frame := frame_issueOpWrite s e a w d
      refine (Acts.of_completion frame).trans (acts_runOps e tenant rest j _ ?_)
      rw [State.engine, frame.dsp]
      exact running
    cases op with
    | write w a d =>
      simp only [State.runOps]
      split
      · split
        · exact issued a w d _
        · exact refuse
      · exact .of_eq (board_waitForLink s e i _)
    | stamp a =>
      simp only [State.runOps]
      split
      · split
        · exact issued a _ _ _
        · exact refuse
      · exact .of_eq (board_waitForLink s e i _)
    | read w a =>
      simp only [State.runOps]
      split
      · exact .of_eq (board_issueRead s e i a w)
      · exact refuse
    | maskedWrite w a d m =>
      simp only [State.runOps]
      split
      · exact .of_eq (board_issueRead s e i a w)
      · exact refuse
    | poll w a d m l =>
      simp only [State.runOps]
      split
      · exact .of_eq (board_issueRead s e i a w)
      · exact refuse
    | line l v => exact .of_eq (board_setPath s e i _)
    | wait n => exact .of_eq (board_setPath s e i _)

theorem acts_continueAfter {s : State} {e : Fin 4} (running : (s.engine e).state = .running) (x : Slot) (i : Nat) :
    Acts s (s.continueAfter e x i) := acts_runOps e _ _ _ s running

theorem Slot.samePlace_capture (x : Slot) (v : Word64) : x.SamePlace { x with capture := v } :=
  ⟨⟨rfl, rfl, rfl⟩, rfl, rfl, rfl, rfl⟩

theorem acts_setCapture (s : State) (id : Nat) (v : Word64) : Acts s (s.setCapture id v) := by
  unfold State.setCapture
  split
  · exact .move (.change (fun _ => ‹_›) (Slot.samePlace_capture _ v)) rfl
  · exact .refl s

theorem engine_setCapture (s : State) (id : Nat) (v : Word64) (e : Fin 4) :
    (s.setCapture id v).engine e = s.engine e := by
  unfold State.setCapture
  split <;> rfl

theorem acts_stoppedReturn {s : State} {e : Fin 4} (running : (s.engine e).state = .running) (k : Stop) (v : Word64) :
    Acts s (s.stoppedReturn e k v) := by
  have captured : ((s.setCapture (s.engine e).slot v).engine e).state = .running := by rw [engine_setCapture]; exact running
  cases k with
  | budget => exact (acts_setCapture s _ v).trans (acts_afterStop_running _ captured)
  | teardown => exact acts_afterStop_running _ running
  | fatal => exact (acts_setCapture s _ v).trans (acts_afterStop_running _ captured)

theorem acts_failRead {s : State} {e : Fin 4} (running : (s.engine e).state = .running) : Acts s (s.failRead e) := by
  unfold State.failRead
  split
  · exact acts_afterStop_running _ running
  · exact acts_endInstance (engine_running_ne running).1 _ _

theorem acts_startInstance {s : State} {e : Fin 4} {x : Slot} (bound : (s.engine e).state = .bound)
    (slot : s.slot? (s.engine e).slot = some x) : Acts s (s.startInstance e x) := by
  have started (late : Bool) : Acts s ((s.setSlot (s.engine e).slot { x with state := .firing, capture := 0 }).setEngine e
      ((s.engine e).startedAt s.now (1000000 * s.dsp.budget) late)) := by
    refine .move (.start (e := e) (due := (s.engine e).due) 0 ?_ slot) (by rw [board_setEngine]; rfl)
    rw [board_engines, Engine.hold, bound]
  have running (late : Bool) : (((s.setSlot (s.engine e).slot { x with state := .firing, capture := 0 }).setEngine e
      ((s.engine e).startedAt s.now (1000000 * s.dsp.budget) late)).engine e).state = .running := by
    rw [State.engine_setEngine_self]
    rfl
  unfold State.startInstance
  dsimp only
  split
  · split
    · exact (started _).trans (acts_runOps e _ _ _ _ (running _))
    · exact (started _).trans (acts_endInstance (engine_running_ne (running _)).1 _ _)
    · exact (started _).trans (acts_endInstance (engine_running_ne (running _)).1 _ _)
  · exact (started _).trans (acts_runOps e _ _ _ _ (running _))

theorem acts_unbind (s : State) (e : Fin 4) : Acts s (s.unbind e) := by
  unfold State.unbind
  split
  · rename_i hb
    have engine : s.board.engines e = (.bound, (s.engine e).slot, (s.engine e).due) := by
      rw [board_engines, Engine.hold, hb.1]
    split
    · rename_i x slot
      refine .move (.unbind engine slot) ?_
      rw [← board_setSlot, ← board_setEngine]
      rfl
    · exact .move (.stray engine (by decide) ‹_›) (board_setEngine s e _)
  · exact .refl s

theorem acts_dspReact (s : State) : Acts s s.dspReact :=
  ((((acts_unbind s 0).trans (acts_unbind _ 1)).trans (acts_unbind _ 2)).trans (acts_unbind _ 3)).trans (acts_stageAll _)

theorem acts_maskedWriteBack {s : State} {e : Fin 4} (running : (s.engine e).state = .running) (x : Slot) (w : Width)
    (a : Addr) (o d m : Word64) : Acts s (s.maskedWriteBack e x w a o d m) := by
  unfold State.maskedWriteBack
  split
  · split
    · have frame := frame_issueOpWrite s e a w (maskedValue w o d m)
      refine (Acts.of_completion frame).trans (acts_continueAfter ?_ x _)
      rw [State.engine, frame.dsp]
      exact running
    · exact acts_endInstance (engine_running_ne running).1 _ _
  · exact .of_eq (board_waitForLink s e _ _)

/-! ## Gates and listeners -/

theorem acts_openGate {s : State} {id : Nat} {x : Slot} {g : Gate} (slot : s.slot? id = some x)
    (state : x.state = .awaiting) (gate : x.gate = some g) : Acts s (s.openGate id x g) :=
  .move (.openGate s.ast.seq slot state gate) (board_openGate s id x g)

theorem board_reenter (s : State) (id : Nat) (x : Slot) (due : Nat) :
    ((s.unplace (fun k => k == id)).enterSchedule id x due).board
      = (s.board.unplace (fun k => k == id)).enterSchedule id x due s.ast.seq := by
  rw [board_enterSchedule, board_unplace]
  rfl

theorem acts_closeGate {s : State} {id : Nat} {x : Slot} (g : Gate) (slot : s.slot? id = some x)
    (state : x.state = .listening) : Acts s (s.closeGate id x g) := by
  have removable : x.state.removable = true := by rw [state]; rfl
  unfold State.closeGate
  split
  · refine .move (.remove (fun _ => slot) removable) ?_
    rw [State.endSlot, board_retireIfDone, board_freeSlot, (frame_postCompletion s _ _).board]
  · exact .move (.reenter _ _ (fun _ => slot) removable (.refl x)) (board_reenter s id x _)

theorem acts_processHead (s : State) : Acts s s.processHead := by
  cases hh : s.calendarHead? with
  | none =>
    simp only [State.processHead, hh]
    exact .refl s
  | some p =>
    obtain ⟨h, tail, hc, hr⟩ : ∃ h tail, s.lnu.calendar = h :: tail ∧ h.time ≤ s.tb.value := by
      by_contra none
      have := (State.calendarHead?_eq_none_iff s).2 (fun h tail hl => by
        by_contra hk
        exact none ⟨h, tail, hl, by omega⟩)
      rw [this] at hh
      cases hh
    rcases State.processHead_cases hc hr with ⟨x, g, slot, state, gate, he⟩ | ⟨x, g, slot, state, gate, he⟩ | ⟨hn, he⟩
    · rw [he]
      exact acts_openGate slot state gate
    · rw [he]
      exact acts_closeGate g slot state
    · rw [he]
      exact .move (.dropCalendar hc hn) rfl

theorem acts_sweepUpTo : ∀ (n : Nat) (s : State), Acts s (State.sweepUpTo n s)
  | 0, s => .refl s
  | n + 1, s => by
    unfold State.sweepUpTo
    split
    · exact (acts_processHead s).trans (acts_sweepUpTo n _)
    · exact .refl s

/-- Releasing listeners one after another, whose slots are all LISTENING or have just been released. -/
theorem acts_releaseListeners (stamp : Nat) : ∀ (ids : List Nat) (s : State),
    (∀ id ∈ ids, ∀ x, s.slot? id = some x → x.state.removable = true) →
      Acts s (ids.foldl (State.releaseListener stamp) s)
  | [], s, _ => .refl s
  | id :: rest, s, removable => by
    rw [List.foldl_cons]
    have first : Acts s (State.releaseListener stamp s id) := by
      unfold State.releaseListener
      split
      · rename_i x slot
        exact .move (.reenter _ _ (fun _ => slot) (removable id List.mem_cons_self x slot) (.refl x)) (board_reenter s id x _)
      · exact .refl s
    refine first.trans (acts_releaseListeners stamp rest _ (fun k hk y hy => ?_))
    have before := removable k (List.mem_cons_of_mem _ hk)
    unfold State.releaseListener at hy
    split at hy
    · rw [State.slot?_enterSchedule] at hy
      split at hy
      · cases hy
        rfl
      · exact before y hy
    · exact before y hy

theorem acts_releaseAll (s : State) (l : Fin 4) (k : EdgeKind) (stamp : Nat) : Acts s (s.releaseAll l k stamp) := by
  refine acts_releaseListeners stamp _ s (fun id hid x hx => ?_)
  obtain ⟨y, -, hy, state, -⟩ := (s.qualifies_iff k stamp id).1 (List.mem_filter.1 hid).2
  rw [hx] at hy
  cases hy
  rw [state]
  rfl

theorem board_setInput (s : State) (l : Fin 4) (x : InputLine) : (s.setInput l x).board = s.board := rfl

end Sys2Proof.Machine

/-! Every command takes the slots through moves only. -/

namespace Sys2Proof.Machine

open Sys2Proof

/-! ## What the commands find -/

theorem State.running_of_opInPhase {s : State} {e : Fin 4} {p : Phase} {q : Slot × Op} (h : s.opInPhase e p = some q) :
    (s.engine e).state = .running := by
  unfold State.opInPhase at h
  split at h
  · rename_i hr
    exact hr.1
  · cases h

theorem State.slot_of_calendarHead {s : State} {id : Nat} {x : Slot} (h : s.calendarHead? = some (id, some x)) :
    s.slot? id = some x := by
  unfold State.calendarHead? at h
  split at h
  · split at h
    · simp only [Option.some.injEq, Prod.mk.injEq] at h
      obtain ⟨rfl, hx⟩ := h
      exact hx
    · cases h
  · cases h

theorem State.ctx_of_entryFetchOf {s : State} {c : Fin 8} {r : Fin 16} {h t : Nat} {l : Bool}
    (hf : s.entryFetchOf c = some (r, h, t, l)) : s.ctx c = .fetch r h t l := by
  unfold State.entryFetchOf at hf
  split at hf
  · split at hf
    · cases hf
      assumption
    · cases hf
  · cases hf

theorem State.ctx_of_fetchOf {s : State} {c : Fin 8} {r : Fin 16} {e : Entry} {id sample timer : Nat} {l : Bool}
    {x : Slot} (hf : s.fetchOf c = some (r, e, id, sample, timer, l, x)) :
    (s.ctx c).fetching? = some id ∧ s.slot? id = some x := by
  unfold State.fetchOf at hf
  split at hf
  · split at hf
    · rename_i hc
      split at hf
      · cases hf
        exact ⟨by rw [hc]; rfl, ‹_›⟩
      · cases hf
    · cases hf
  · cases hf

theorem State.ctx_of_freeCtx {s : State} {c : Fin 8} (h : s.freeCtx? = some c) : s.ctx c = .free := by
  simpa using List.find?_some h

theorem State.ctx_of_identityOf {s : State} {c : Fin 8} {q : Fin 16 × Entry × Nat} (h : s.identityOf c = some q) :
    (s.ctx c).fetching? = none := by
  unfold State.identityOf at h
  split at h
  · split at h
    · rename_i hc
      rw [hc]
      rfl
    · cases h
  · cases h

/-- What an ARM has passed once AST accepts it (R49). -/
theorem State.armVerdict_accept {s : State} {r : Fin 16} {e : Entry} {x : Slot} (h : s.armVerdict r e = .accept x) :
    ∃ p due ops, (armFieldsOf e).params? = some p ∧ s.armTimes (s.sq r).tenant (armFieldsOf e) p = .ok (due, ops)
      ∧ s.tagLookup r (armFieldsOf e).tag = none ∧ s.holdings (s.sq r).tenant < s.quota (s.sq r).tenant
      ∧ s.ast.slots.length < Config.slotCount ∧ x = newSlot (armFieldsOf e) p r (s.sq r).tenant due ops := by
  unfold State.armVerdict at h
  dsimp only at h
  split at h
  · cases h
  split at h
  · cases h
  split at h
  · cases h
  rename_i p params
  split at h
  · cases h
  rename_i due ops times
  split at h
  · cases h
  rename_i tag
  split at h
  · cases h
  rename_i quota
  split at h
  · cases h
  rename_i room
  cases h
  exact ⟨p, due, ops, params, times, by simpa using tag, by omega, by omega, rfl⟩

theorem State.quota_fin (s : State) (n : Fin 16) : s.quota n.val = s.ast.quotas[n] := by
  simp [State.quota]

/-- An accepted ARM may take the lowest FREE slot. -/
theorem State.admits_of_armVerdict {s : State} {r : Fin 16} {e : Entry} {x : Slot} (h : s.armVerdict r e = .accept x) :
    s.board.Admits (lowestFree 0 s.ast.slots) x := by
  obtain ⟨p, due, ops, -, -, tag, quota, room, rfl⟩ := State.armVerdict_accept h
  refine ⟨fun rising => ?_, fun q hq hk => ?_, fun n hn => ?_⟩
  · obtain ⟨-, bound, fresh⟩ := lowestFree_spec s.ast.slots 0 rising (fun _ _ => Nat.zero_le _)
    refine ⟨?_, by omega⟩
    cases hs : slotGet s.ast.slots (lowestFree 0 s.ast.slots) with
    | none => exact hs
    | some y => exact absurd rfl (fresh _ (slotGet_mem hs))
  · have := List.find?_eq_none.1 tag q hq
    simp only [Bool.and_eq_true, beq_iff_eq] at this
    exact this hk
  · have hn : n.val = (s.sq r).tenant := hn
    rw [← hn, State.quota_fin] at quota
    exact quota

/-! ## Time -/

section time

variable (c : Fin 8) (s : State)

theorem hold_tick (x : Engine) : x.tick.hold = x.hold := by
  unfold Engine.tick
  split <;> rfl

theorem fetching_tick (x : ReqContext) : x.tick.fetching? = x.fetching? := by
  cases x with
  | free => rfl
  | fetch r h t l => rfl
  | effect r h e p => cases p <;> rfl

theorem board_period (n : Nat) : (s.period n).board = s.board := by
  ext1 <;> try rfl
  · funext e
    simp [State.board, State.period, State.engine, hold_tick]
  · funext c
    simp [State.board, State.period, State.ctx, fetching_tick]

theorem acts_setTime : ∃ t, execSetTime c s = .next t ∧ Acts s t := by
  refine ⟨_, rfl, ?_⟩
  split
  · rename_i hr
    dsimp only
    split
    · exact Acts.answerAfter (by exact rfl) hr _ _
    · exact .answer hr _ _
  · exact .refl s

theorem acts_stepTime : ∃ t, execStepTime c s = .next t ∧ Acts s t := by
  refine ⟨_, rfl, ?_⟩
  split
  · rename_i hr
    split
    · exact .answer hr _ _
    · dsimp only
      split
      · exact Acts.answerAfter (by exact rfl) hr _ _
      · exact Acts.answerAfter (by exact rfl) hr _ _
  · exact .refl s

theorem acts_slewTime : ∃ t, execSlewTime c s = .next t ∧ Acts s t := by
  refine ⟨_, rfl, ?_⟩
  split
  · rename_i hr
    split
    · exact .answer hr _ _
    · split
      · exact .answer hr _ _
      · exact Acts.answerAfter (by exact rfl) hr _ _
  · exact .refl s

theorem acts_readTimeState : ∃ t, execReadTimeState c s = .next t ∧ Acts s t := by
  refine ⟨_, rfl, ?_⟩
  split
  · exact .answer ‹_› _ _
  · exact .refl s

theorem acts_timebaseCeiling (n : Nat) : ∃ t, execTimebaseCeiling n s = .next t ∧ Acts s t := by
  refine ⟨_, rfl, ?_⟩
  split
  · exact .of_eq (board_period s n)
  · exact .refl s

end time

/-! ## The action store -/

section store

variable (c : Fin 8) (s : State)

theorem State.setProgress_board {c : Fin 8} {p : Effect} {r : Fin 16} {h : Nat} {e : Entry} {q : Effect}
    (hc : s.ctx c = .effect r h e q) :
    (s.setProgress c p).board = s.board.setFetch c (ReqContext.effect r h e p).fetching? := by
  rw [State.setProgress, board_setCtx, hc]
  rfl

/-- An action that is placed stands with its times in one of the two orders. -/
theorem board_placeAction (id : Nat) (x : Slot) :
    (∃ n, (s.placeAction id x).board = s.board.enterSchedule id x x.due n)
      ∨ ∃ g n, x.gate = some g ∧ (s.placeAction id x).board = s.board.enterCalendar id x .awaiting g.openTime n := by
  unfold State.placeAction
  split
  · exact .inl ⟨_, rfl⟩
  · exact .inr ⟨_, _, ‹_›, rfl⟩

theorem ctx_placeAction (id : Nat) (x : Slot) : (s.placeAction id x).ctx c = s.ctx c := by
  unfold State.placeAction
  split <;> rfl

theorem acts_arm : ∃ t, execArm c s = .next t ∧ Acts s t := by
  refine ⟨_, rfl, ?_⟩
  split
  · rename_i r e hr
    have quiet := State.fetching_of_requestOf hr
    split
    · exact .answer hr _ _
    · rename_i x verdict
      have admits := State.admits_of_armVerdict verdict
      dsimp only
      split
      · rename_i pending
        obtain ⟨-, request, -⟩ := (s.requestOf_eq_some_iff c .arm r e).1 hr
        obtain ⟨h, hc⟩ : ∃ h, s.ctx c = .effect r h e .waiting := by
          cases hc : s.ctx c with
          | free => rw [hc] at request; cases request
          | fetch => rw [hc] at request; cases request
          | effect r' h' e' p' =>
            rw [hc] at request
            cases request
            exact ⟨h', rfl⟩
        refine .move (.armFetch admits pending quiet) ?_
        rw [State.beginListFetch, (frame_placeIfMaster _ _).board, State.setProgress_board (s.setSlot _ x) (c := c) hc]
        rfl
      · have placed : Acts s (s.placeAction (lowestFree 0 s.ast.slots) x) := by
          rcases board_placeAction s (lowestFree 0 s.ast.slots) x with ⟨n, hb⟩ | ⟨g, n, hg, hb⟩
          · exact .move (.armSchedule _ n admits) hb
          · exact .move (.armCalendar n admits hg) hb
        exact placed.answered (by rw [ctx_placeAction]; exact quiet) _ _
  · exact .refl s

/-- A list fetch that is refused frees its slot with its context. -/
theorem acts_refuseFetched {id : Nat} (fetch : (s.ctx c).fetching? = some id) (r : Fin 16) (x : Result) :
    Acts s (s.refuseFetched c r id x) := by
  refine .move (.fetchFails fetch) ?_
  rw [State.refuseFetched, board_completeRequest, board_freeSlot]

theorem acts_listArrived {id : Nat} {x : Slot} (fetch : (s.ctx c).fetching? = some id) (slot : s.slot? id = some x)
    (r : Fin 16) (e : Entry) (sample : Nat) (bytes : ListBytes) : Acts s (s.listArrived c r e id sample x bytes) := by
  unfold State.listArrived
  dsimp only
  split
  · exact acts_refuseFetched c s fetch _ _
  · split
    · exact acts_refuseFetched c s fetch _ _
    · rename_i ops _
      rcases board_placeAction s id { x with ops := ops } with ⟨n, hb⟩ | ⟨g, n, hg, hb⟩
      · exact .move (.fetchSchedule _ n fetch slot (y := { x with ops := ops }) ⟨rfl, rfl, rfl⟩)
          (by rw [board_completeRequest, hb])
      · exact .move (.fetchCalendar n fetch slot (y := { x with ops := ops }) ⟨rfl, rfl, rfl⟩ hg)
          (by rw [board_completeRequest, hb])

theorem acts_listFetchDone (x : ListResult) : ∃ t, execListFetchDone c x s = .next t ∧ Acts s t := by
  refine ⟨_, rfl, ?_⟩
  split
  · rename_i hf
    obtain ⟨fetch, slot⟩ := State.ctx_of_fetchOf hf
    split
    · exact acts_refuseFetched c s fetch _ _
    · split
      · exact acts_listArrived c s fetch slot _ _ _ _
      · exact .refl s
  · exact .refl s

theorem acts_listFetchTimeout : ∃ t, execListFetchTimeout c s = .next t ∧ Acts s t := by
  refine ⟨_, rfl, ?_⟩
  split
  · rename_i hf
    obtain ⟨fetch, -⟩ := State.ctx_of_fetchOf hf
    split
    · exact acts_refuseFetched c (s.noteStale (.list c)) fetch _ _
    · exact .refl s
  · exact .refl s

theorem Slot.samePlace_endRequested (x : Slot) : x.SamePlace { x with endRequested := true } :=
  ⟨⟨rfl, rfl, rfl⟩, rfl, rfl, rfl, rfl⟩

theorem acts_cancelSlot {id : Nat} {x : Slot} (slot : Rising s.ast.slots → s.slot? id = some x) : Acts s (s.cancelSlot id x).2.2 := by
  unfold State.cancelSlot
  split
  · exact .move (.remove slot ‹_›) (board_freeSlot s id)
  · split
    · exact .move (.change slot (Slot.samePlace_endRequested x)) rfl
    · exact .refl s

theorem ctx_cancelSlot (id : Nat) (x : Slot) : (s.cancelSlot id x).2.2.ctx c = s.ctx c := by
  unfold State.cancelSlot
  split
  · rfl
  · split <;> rfl

theorem acts_cancel : ∃ t, execCancel c s = .next t ∧ Acts s t := by
  refine ⟨_, rfl, ?_⟩
  split
  · rename_i hr
    split
    · exact .answer hr _ _
    · rename_i found
      refine (acts_cancelSlot s (fun rising => ?_)).answered ?_ _ _
      · exact slotGet_of_mem rising (State.tagLookup_some found).1
      · rw [ctx_cancelSlot]
        exact State.fetching_of_requestOf hr
  · exact .refl s

theorem acts_cancelAll : ∃ t, execCancelAll c s = .next t ∧ Acts s t := by
  refine ⟨_, rfl, ?_⟩
  split
  · rename_i r e hr
    exact Acts.answered (u := s.sweepRing r) (.move (.sweep r) (board_sweepRing s r))
      (State.fetching_of_requestOf hr) _ _
  · exact .refl s

/-- An AMEND that is accepted has found the slot of its tag ARMED. -/
theorem State.amendVerdict_accept {s : State} {r : Fin 16} {e : Entry} {id due : Nat} {y : Slot}
    (h : s.amendVerdict r e = .accept id y due) :
    ∃ x, s.tagLookup r (amendFieldsOf e).tag = some (id, x) ∧ x.state = .armed ∧ y = amendedSlot (amendFieldsOf e) x
      ∧ due = (amendFieldsOf e).newDue s.now := by
  unfold State.amendVerdict at h
  dsimp only at h
  split at h
  · split at h
    · cases h
    · rename_i id x found
      unfold State.amendFound at h
      split at h
      · cases h
      split at h
      · cases h
      rename_i armed
      split at h
      · cases h
      split at h
      · cases h
      cases h
      exact ⟨x, found, by simpa using armed, rfl, rfl⟩
  · cases h

theorem acts_amend : ∃ t, execAmend c s = .next t ∧ Acts s t := by
  refine ⟨_, rfl, ?_⟩
  split
  · rename_i hr
    split
    · exact .answer hr _ _
    · rename_i id y due verdict
      obtain ⟨x, found, armed, rfl, -⟩ := State.amendVerdict_accept verdict
      refine Acts.answered (u := s.reenter id _ due) ?_ (State.fetching_of_requestOf hr) _ _
      refine .move (.reenter (x := x) due s.ast.seq (fun rising => ?_) (by rw [armed]; rfl) ?_) (board_reenter s id _ due)
      · exact slotGet_of_mem rising (State.tagLookup_some found).1
      · exact ⟨rfl, rfl, rfl⟩
  · exact .refl s

theorem acts_query : ∃ t, execQuery c s = .next t ∧ Acts s t := by
  refine ⟨_, rfl, ?_⟩
  split
  · exact .answer ‹_› _ _
  · exact .refl s

theorem board_setQuota (n : Fin 16) (q : Nat) :
    ({ s with ast := { s.ast with quotas := s.ast.quotas.set n q } } : State).board
      = { s.board with quotas := Function.update s.board.quotas n q } := by
  ext1 <;> try rfl
  funext m
  by_cases h : m = n
  · subst h
    simp [State.board]
  · simp [State.board, Function.update_of_ne h, Fin.val_inj, Ne.symm h]

theorem acts_setTenantLimits : ∃ t, execSetTenantLimits c s = .next t ∧ Acts s t := by
  refine ⟨_, rfl, ?_⟩
  split
  · rename_i hr
    dsimp only
    split
    · exact .answer hr _ _
    · rename_i n _
      split
      · exact .answer hr _ _
      · split
        · exact .answer hr _ _
        · rename_i valid
          split
          · exact .answer hr _ _
          · rename_i held
            have replaced : Acts s { s with ast := { s.ast with quotas := s.ast.quotas.set n (bytesOf _ 8 2) } } :=
              .move (.quota n _ (Nat.le_of_not_lt valid) (Nat.le_of_not_lt held)) (board_setQuota s n _)
            exact replaced.answered (State.fetching_of_requestOf hr) _ _
  · exact .refl s

end store

/-! ## Dispatch and operations -/

section dispatch

variable (c : Fin 8) (e : Fin 4) (s : State)

theorem acts_holdDispatch : ∃ t, execHoldDispatch c s = .next t ∧ Acts s t := by
  refine ⟨_, rfl, ?_⟩
  split
  · rename_i hr
    exact Acts.answerAfter (by exact rfl) hr _ _
  · exact .refl s

theorem acts_resumeDispatch : ∃ t, execResumeDispatch c s = .next t ∧ Acts s t := by
  refine ⟨_, rfl, ?_⟩
  split
  · rename_i r _ hr
    dsimp only
    have answered : Acts s (({ s with dsp := { s.dsp with hold := false } }).completeRequest c r s.holdResult) :=
      .answerAfter (by exact rfl) hr _ _
    split
    · exact answered.trans (acts_stageAll _)
    · exact answered
  · exact .refl s

theorem acts_setDispatch : ∃ t, execSetDispatch c s = .next t ∧ Acts s t := by
  refine ⟨_, rfl, ?_⟩
  split
  · rename_i hr
    dsimp only
    split
    · exact Acts.trans (by exact Acts.answerAfter (by exact rfl) hr _ _) (acts_stageAll _)
    · exact .answer hr _ _
  · exact .refl s

theorem acts_instanceStart : ∃ t, execInstanceStart e s = .next t ∧ Acts s t := by
  refine ⟨_, rfl, ?_⟩
  split
  · rename_i start
    obtain ⟨bound, -⟩ := start
    split
    · exact acts_startInstance bound ‹_›
    · exact .refl s
  · exact .refl s

theorem acts_budgetExpired : ∃ t, execBudgetExpired e s = .next t ∧ Acts s t := by
  refine ⟨_, rfl, ?_⟩
  split
  · rename_i expired
    obtain ⟨running, -⟩ := expired
    exact acts_stopRunning _ running
  · exact .refl s

theorem acts_dspStepEvent : ∃ t, execDspStepEvent s = .next t ∧ Acts s t := by
  refine ⟨_, rfl, ?_⟩
  split
  · exact .refl s
  · rename_i rest _
    dsimp only
    split
    · exact (Acts.of_eq rfl).trans (acts_dspReact { s with dsp := { s.dsp with steps := rest } })
    · exact .of_eq rfl

theorem acts_readDataReturned (d : Word64) : ∃ t, execReadDataReturned e d s = .next t ∧ Acts s t := by
  refine ⟨_, rfl, ?_⟩
  split
  · rename_i found
    have running := State.running_of_opInPhase found
    split
    · split
      · exact acts_stoppedReturn running _ _
      · exact (acts_setCapture s _ _).trans (acts_continueAfter (by rw [engine_setCapture]; exact running) _ _)
    · exact .refl s
  · exact .refl s

theorem acts_maskedWriteReadReturned (d : Word64) : ∃ t, execMaskedWriteReadReturned e d s = .next t ∧ Acts s t := by
  refine ⟨_, rfl, ?_⟩
  split
  · rename_i found
    have running := State.running_of_opInPhase found
    split
    · split
      · exact acts_stoppedReturn running _ _
      · exact (acts_setCapture s _ _).trans
          (acts_maskedWriteBack (by rw [engine_setCapture]; exact running) _ _ _ _ _ _)
    · exact .refl s
  · exact .refl s

theorem acts_pollReadReturned (d : Word64) : ∃ t, execPollReadReturned e d s = .next t ∧ Acts s t := by
  refine ⟨_, rfl, ?_⟩
  split
  · rename_i w _ _ _ _ found
    have running := State.running_of_opInPhase found
    have captured : ((s.setCapture (s.engine e).slot (w.fit d)).engine e).state = .running := by
      rw [engine_setCapture]
      exact running
    split
    · split
      · exact acts_stoppedReturn running _ _
      · dsimp only
        refine (acts_setCapture s (s.engine e).slot (w.fit d)).trans ?_
        split
        · exact acts_continueAfter captured _ _
        · split
          · exact acts_endInstance (engine_running_ne captured).1 _ _
          · exact .of_eq (board_setPath _ _ _ _)
    · exact .refl s
  · exact .refl s

theorem acts_readFailed : ∃ t, execReadFailed e s = .next t ∧ Acts s t := by
  refine ⟨_, rfl, ?_⟩
  split
  · exact acts_failRead (State.running_of_opInPhase ‹_›)
  · exact .refl s

theorem acts_readTimeout : ∃ t, execReadTimeout e s = .next t ∧ Acts s t := by
  refine ⟨_, rfl, ?_⟩
  split
  · rename_i found
    split
    · exact acts_failRead (s := s.noteStale (.operation e)) (State.running_of_opInPhase found)
    · exact .refl s
  · exact .refl s

theorem acts_writeAcceptedByLink : ∃ t, execWriteAcceptedByLink e s = .next t ∧ Acts s t := by
  refine ⟨_, rfl, ?_⟩
  split
  · rename_i rest found _
    have running : (({ s with hp := { s.hp with posted := rest } } : State).engine e).state = .running :=
      State.running_of_opInPhase found
    split
    · dsimp only
      split
      · rename_i a w d _
        split
        · have placed := frame_placeIfMaster { s with hp := { s.hp with posted := rest } } (.opWrite e a w d)
          refine (Acts.of_eq placed.board).trans (acts_continueAfter ?_ _ _)
          rw [State.engine, placed.dsp]
          exact running
        · exact acts_endInstance (engine_running_ne running).1 _ _
      · exact .refl s
    · exact .refl s
  · exact .refl s

theorem acts_pollSpacingElapsed : ∃ t, execPollSpacingElapsed e s = .next t ∧ Acts s t := by
  refine ⟨_, rfl, ?_⟩
  split
  · rename_i found
    split
    · split
      · exact .of_eq ((frame_placeIfMaster _ _).board.trans (board_setPath _ _ _ _))
      · exact acts_endInstance (engine_running_ne (State.running_of_opInPhase found)).1 _ _
    · exact .refl s
  · exact .refl s

theorem acts_pollLimitExpired : ∃ t, execPollLimitExpired e s = .next t ∧ Acts s t := by
  refine ⟨_, rfl, ?_⟩
  split
  · rename_i found
    split
    · exact acts_endInstance (engine_running_ne (State.running_of_opInPhase found)).1 _ _
    · exact .refl s
  · exact .refl s

theorem acts_waitElapsed : ∃ t, execWaitElapsed e s = .next t ∧ Acts s t := by
  refine ⟨_, rfl, ?_⟩
  split
  · rename_i found
    split
    · exact acts_continueAfter (State.running_of_opInPhase found) _ _
    · exact .refl s
  · exact .refl s

theorem acts_lineRequest : ∃ t, execLineRequest e s = .next t ∧ Acts s t := by
  refine ⟨_, rfl, ?_⟩
  split
  · rename_i l v found
    have running := State.running_of_opInPhase found
    dsimp only
    split
    · split
      · exact acts_afterStop_running (s := s.setLevel l v) _ running
      · exact acts_afterStop_running _ running
    · split
      · exact acts_continueAfter (s := s.setLevel l v) running _ _
      · exact acts_endInstance (engine_running_ne running).1 _ _
  · exact .refl s

end dispatch

/-! ## Lines, gates and windows -/

section lines

variable (c : Fin 8) (s : State)

theorem acts_reportEdge (l : Fin 4) (k : EdgeKind) (stamp n : Nat) : Acts s (s.reportEdge l k stamp n) := by
  unfold State.reportEdge
  split
  · split
    · exact .of_eq ((board_setInput _ l _).trans (frame_postCompletion s _ _).board)
    · exact .refl s
  · exact .refl s

theorem acts_inputEdge (l : Fin 4) (k : EdgeKind) : ∃ t, execInputEdge l k s = .next t ∧ Acts s t := by
  refine ⟨_, rfl, ?_⟩
  split
  · split
    · exact .of_eq (board_setInput s l _)
    · exact ((Acts.of_eq (board_setInput s l _)).trans (acts_releaseAll _ l k _)).trans (acts_reportEdge _ l k _ _)
  · exact .refl s

theorem acts_gateOpen : ∃ t, execGateOpen s = .next t ∧ Acts s t := by
  refine ⟨_, rfl, ?_⟩
  split
  · split
    · rename_i head
      split
      · exact acts_openGate (State.slot_of_calendarHead head) ‹_› ‹_›
      · exact .refl s
    · exact .refl s
  · exact .refl s

theorem acts_gateClose : ∃ t, execGateClose s = .next t ∧ Acts s t := by
  refine ⟨_, rfl, ?_⟩
  split
  · split
    · rename_i head
      split
      · exact acts_closeGate _ (State.slot_of_calendarHead head) ‹_›
      · exact .refl s
    · exact .refl s
  · exact .refl s

theorem acts_lnuStepEvent : ∃ t, execLnuStepEvent s = .next t ∧ Acts s t := by
  refine ⟨_, rfl, ?_⟩
  split
  · exact .refl s
  · rename_i rest _
    dsimp only
    split
    · exact (Acts.of_eq rfl).trans (acts_sweepUpTo _ { s with lnu := { s.lnu with steps := rest } })
    · exact .of_eq rfl

theorem acts_configureInputLine : ∃ t, execConfigureInputLine c s = .next t ∧ Acts s t := by
  refine ⟨_, rfl, ?_⟩
  split
  · rename_i hr
    split
    · exact .answer hr _ _
    · split
      · exact .answer hr _ _
      · split
        · exact .answerAfter (board_setInput s _ _) hr _ _
        · split
          · exact .answer hr _ _
          · split
            · exact .answerAfter (board_setInput s _ _) hr _ _
            · exact .answer hr _ _
  · exact .refl s

theorem acts_grantLine : ∃ t, execGrantLine c s = .next t ∧ Acts s t := by
  refine ⟨_, rfl, ?_⟩
  split
  · rename_i hr
    split
    · exact .answer hr _ _
    · dsimp only
      split
      · exact .answer hr _ _
      · split
        · exact .answer hr _ _
        · split
          · exact .answer hr _ _
          · exact Acts.answerAfter (by exact rfl) hr _ _
  · exact .refl s

theorem acts_revokeLine : ∃ t, execRevokeLine c s = .next t ∧ Acts s t := by
  refine ⟨_, rfl, ?_⟩
  split
  · rename_i hr
    split
    · exact .answer hr _ _
    · exact Acts.answerAfter (by exact rfl) hr _ _
  · exact .refl s

theorem acts_setWindow : ∃ t, execSetWindow c s = .next t ∧ Acts s t := by
  refine ⟨_, rfl, ?_⟩
  split
  · rename_i hr
    split
    · exact .answer hr _ _
    · split
      · exact .answer hr _ _
      · exact Acts.answerAfter (by exact rfl) hr _ _
  · exact .refl s

theorem acts_clearWindow : ∃ t, execClearWindow c s = .next t ∧ Acts s t := by
  refine ⟨_, rfl, ?_⟩
  split
  · rename_i hr
    split
    · exact .answer hr _ _
    · exact Acts.answerAfter (by exact rfl) hr _ _
  · exact .refl s

end lines

/-! ## Rings -/

section rings

variable (c : Fin 8) (s : State)

theorem board_writePost (d : Word64) : (s.writePost d).board = s.board := by
  unfold State.writePost
  split
  · split
    · exact board_setSq s _ _
    · exact (frame_postNotice s _ _ _ _ _).board
  · rfl

/-- A grant puts a FREE context into FETCH, which fetches no list. -/
theorem board_grant (r : Fin 16) (free : s.ctx c = .free) : (s.grant r c).board = s.board := by
  unfold State.grant
  dsimp only
  rw [(frame_placeIfMaster _ _).board, (frame_setCq _ _ _).board, board_setCtx]
  exact Board.setFetch_of_none (b := (s.setSq r { s.sq r with inFlight := true }).board)
    (by rw [board_setSq, board_fetching, free]; rfl)

theorem board_grantTenant (r : Fin 16) (free : s.ctx c = .free) : (s.grantTenant r c).board = s.board :=
  board_grant c { s.setSq r { s.sq r with credit := (s.sq r).credit - 1 } with
    rqe := { (s.setSq r { s.sq r with credit := (s.sq r).credit - 1 }).rqe with pointer := nextPointer r } } r free

theorem acts_requestGrant : ∃ t, execRequestGrant s = .next t ∧ Acts s t := by
  refine ⟨_, rfl, ?_⟩
  split
  · rename_i c hc
    have free := State.ctx_of_freeCtx hc
    unfold State.arbitrate
    split
    · exact .of_eq (board_grant c s 0 free)
    · split
      · exact .of_eq (board_grantTenant c s _ free)
      · split
        · split
          · exact .of_eq (board_grantTenant c s.newRound _ free)
          · exact .of_eq rfl
        · exact .refl s
  · exact .refl s

theorem board_take (r : Fin 16) (h : Nat) (e : Entry) (quiet : (s.ctx c).fetching? = none) :
    (s.take c r h e).board = s.board := by
  rw [State.take, board_setCtx]
  exact Board.setFetch_of_none (b := (s.setSq r (s.sq r).advanced).board) quiet

theorem acts_entryTaken (e : Entry) : ∃ t, execEntryTaken c e s = .next t ∧ Acts s t := by
  refine ⟨_, rfl, ?_⟩
  split
  · rename_i r h t l hf
    have quiet : (s.ctx c).fetching? = none := by rw [State.ctx_of_entryFetchOf hf]; rfl
    have taken := board_take c s r h e quiet
    split
    · split
      · exact .of_eq taken
      · refine (Acts.of_eq taken).answered ?_ _ _
        rw [← board_fetching, taken]
        exact quiet
    · exact .refl s
  · exact .refl s

theorem board_failFetch (r : Fin 16) (h : Nat) (quiet : (s.ctx c).fetching? = none) :
    (s.failFetch c r h).board = s.board := by
  rw [State.failFetch, board_retireIfDone, (frame_postNotice _ _ _ _ _ _).board, board_setSq,
    (frame_releaseReservation _ _).board, board_freeContext]
  exact Board.setFetch_of_none quiet

theorem acts_entryFetchFailed : ∃ t, execEntryFetchFailed c s = .next t ∧ Acts s t := by
  refine ⟨_, rfl, ?_⟩
  split
  · rename_i hf
    exact .of_eq (board_failFetch c s _ _ (by rw [State.ctx_of_entryFetchOf hf]; rfl))
  · exact .refl s

theorem acts_entryFetchTimeout : ∃ t, execEntryFetchTimeout c s = .next t ∧ Acts s t := by
  refine ⟨_, rfl, ?_⟩
  split
  · rename_i hf
    have quiet : (s.ctx c).fetching? = none := by rw [State.ctx_of_entryFetchOf hf]; rfl
    split
    · exact .of_eq (board_failFetch c (s.noteStale (.entry c)) _ _ quiet)
    · exact .refl s
  · exact .refl s

theorem acts_createSubmissionRing : ∃ t, execCreateSubmissionRing c s = .next t ∧ Acts s t := by
  refine ⟨_, rfl, ?_⟩
  split
  · rename_i hr
    split
    · exact .answer hr _ _
    · split
      · exact .answer hr _ _
      · exact .answerAfter (board_setSq s _ _) hr _ _
  · exact .refl s

theorem acts_deleteSubmissionRing : ∃ t, execDeleteSubmissionRing c s = .next t ∧ Acts s t := by
  refine ⟨_, rfl, ?_⟩
  split
  · rename_i hr
    split
    · rename_i n _ _
      have swept : Acts s (s.deleteSq n) := .move (.sweep n) (board_sweepRing (s.setSq n _) n)
      exact (swept.answered (State.fetching_of_requestOf hr) _ _).trans (.of_eq (board_retireIfDone _ n))
    · exact .answer hr _ _
    · exact .answer hr _ _
  · exact .refl s

theorem acts_createCompletionRing : ∃ t, execCreateCompletionRing c s = .next t ∧ Acts s t := by
  refine ⟨_, rfl, ?_⟩
  split
  · rename_i hr
    split
    · exact .answer hr _ _
    · split
      · exact .answer hr _ _
      · exact .answerAfter (frame_setCq s _ _).board hr _ _
  · exact .refl s

theorem acts_tuneCompletionRing : ∃ t, execTuneCompletionRing c s = .next t ∧ Acts s t := by
  refine ⟨_, rfl, ?_⟩
  split
  · rename_i hr
    split
    · exact .answer hr _ _
    · split
      · exact .answer hr _ _
      · exact .answer hr _ _
      · split
        · exact (Acts.answerAfter (frame_setCq s _ _).board hr _ _).trans (.of_completion (frame_notifyIfDue _ _))
        · exact .answer hr _ _
  · exact .refl s

theorem acts_deleteCompletionRing : ∃ t, execDeleteCompletionRing c s = .next t ∧ Acts s t := by
  refine ⟨_, rfl, ?_⟩
  split
  · rename_i hr
    split
    · exact .answerAfter (frame_setCq s _ _).board hr _ _
    · exact .answer hr _ _
    · exact .answer hr _ _
  · exact .refl s

theorem acts_cuWriteAcceptedByLink : ∃ t, execCuWriteAcceptedByLink s = .next t ∧ Acts s t := by
  refine ⟨_, rfl, ?_⟩
  split
  · split
    · exact .of_eq rfl
    · exact .refl s
  · exact .refl s

theorem acts_holdTimerExpired (q : Fin 16) : ∃ t, execHoldTimerExpired q s = .next t ∧ Acts s t := by
  refine ⟨_, rfl, ?_⟩
  split
  · exact .of_completion (frame_notifyIfDue s q)
  · exact .refl s

theorem acts_enterFatal : Acts s s.enterFatal :=
  ((((acts_fatalEngine s 0).trans (acts_fatalEngine _ 1)).trans (acts_fatalEngine _ 2)).trans (acts_fatalEngine _ 3)).trans
    (.of_eq rfl)

theorem acts_cuWriteFails (w : CuWrite) : Acts s (s.cuWriteFails w) := by
  unfold State.cuWriteFails
  split
  · split
    · exact acts_enterFatal s
    · split
      · exact .of_eq ((frame_postNotice _ _ _ _ _ _).board)
      · exact .refl s
  · exact .refl s

theorem acts_completionWriteFailed : ∃ t, execCompletionWriteFailed s = .next t ∧ Acts s t := by
  refine ⟨_, rfl, ?_⟩
  split
  · rename_i w _ rest _
    split
    · exact (Acts.of_eq rfl).trans (acts_cuWriteFails { s with hp := { s.hp with posted := rest } } w)
    · exact .refl s
  · exact .refl s

end rings

/-! ## The host port -/

section hostPort

variable (c : Fin 8) (s : State)

theorem board_doEnable : s.doEnable.board = s.board := by
  unfold State.doEnable
  split <;> rfl

/-- After it has been told of the teardown an engine is IDLE, or RUNNING while it waits (R94). -/
theorem engine_teardownEngine_self (e : Fin 4) :
    ((s.teardownEngine e).engine e).state = .idle ∨ ((s.teardownEngine e).engine e).state = .running := by
  have released (t : State) : ((t.afterStop e .teardown).engine e).state = .idle := by
    show ((t.setEngine e Engine.released).engine e).state = .idle
    rw [State.engine_setEngine_self]
    rfl
  unfold State.teardownEngine
  split
  · exact .inl ‹_›
  · exact .inl (released s)
  · exact .inl (released s)
  · rename_i running
    unfold State.stopRunning
    split
    · right
      rw [State.engine_setEngine_self]
      exact running
    · right
      rw [State.engine_setEngine_self]
      exact running
    all_goals exact .inl (released _)

theorem engine_teardownEngine_of_ne {e f : Fin 4} (h : f ≠ e) : (s.teardownEngine e).engine f = s.engine f := by
  have released (t : State) (same : t.engine f = s.engine f) : (t.afterStop e .teardown).engine f = s.engine f :=
    (State.engine_setEngine_of_ne t Engine.released h).trans same
  unfold State.teardownEngine
  split
  · rfl
  · exact released s rfl
  · exact released s rfl
  · unfold State.stopRunning
    split
    · exact State.engine_setEngine_of_ne s _ h
    · exact State.engine_setEngine_of_ne s _ h
    all_goals exact released _ rfl

theorem engine_teardownEngines (e : Fin 4) :
    (s.teardownEngines.engine e).state = .idle ∨ (s.teardownEngines.engine e).state = .running := by
  unfold State.teardownEngines
  match e with
  | 0 =>
    rw [engine_teardownEngine_of_ne _ (by decide), engine_teardownEngine_of_ne _ (by decide),
      engine_teardownEngine_of_ne _ (by decide)]
    exact engine_teardownEngine_self _ 0
  | 1 =>
    rw [engine_teardownEngine_of_ne _ (by decide), engine_teardownEngine_of_ne _ (by decide)]
    exact engine_teardownEngine_self _ 1
  | 2 =>
    rw [engine_teardownEngine_of_ne _ (by decide)]
    exact engine_teardownEngine_self _ 2
  | 3 => exact engine_teardownEngine_self _ 3

theorem acts_teardownEngines : Acts s s.teardownEngines :=
  (((acts_teardownEngine s 0).trans (acts_teardownEngine _ 1)).trans (acts_teardownEngine _ 2)).trans
    (acts_teardownEngine _ 3)

theorem board_beginTeardown : s.beginTeardown.board = s.teardownEngines.board.tornDown := by
  ext1 <;> try rfl
  · funext l
    simp [State.board, State.beginTeardown, LineUnit.tornDown, Board.tornDown]
  · funext c
    simp [State.board, State.beginTeardown, State.ctx, RequestEngine.reset, ReqContext.fetching?, Board.tornDown]

theorem acts_beginTeardown : Acts s s.beginTeardown :=
  (acts_teardownEngines s).trans (.move (.teardown (engine_teardownEngines s)) (board_beginTeardown s))

theorem acts_writeEnable (b : Bool) : Acts s (s.writeEnable b) := by
  have written : Acts s { s with hp := { s.hp with enable := b } } := .of_eq rfl
  unfold State.writeEnable
  dsimp only
  refine written.trans ?_
  split
  · exact .refl _
  · split
    · exact .of_eq (board_doEnable _)
    · split
      · exact acts_beginTeardown _
      · exact .refl _
  · split
    · exact .refl _
    · exact acts_beginTeardown _
  · split
    · exact .refl _
    · exact acts_beginTeardown _

theorem acts_teardownEnd : ∃ t, execTeardownEnd s = .next t ∧ Acts s t := by
  refine ⟨_, rfl, ?_⟩
  split
  · unfold State.endTeardown
    dsimp only
    split
    · exact .of_eq (board_doEnable _)
    · exact .of_eq rfl
  · exact .refl s

theorem acts_writeRegister (n : Nat) (d : Word64) : Acts s (s.writeRegister n d) := by
  unfold State.writeRegister
  split
  · exact acts_writeEnable s _
  · exact .of_eq rfl
  · exact .of_eq rfl
  · exact .of_eq (board_writePost s d)
  · exact .of_completion (frame_writeRelease s d)
  · exact .refl s

theorem acts_registerWrite (o : BitVec 12) (a : Access) (d : Word64) :
    ∃ t, execRegisterWrite o a d s = .next t ∧ Acts s t := by
  refine ⟨_, rfl, ?_⟩
  unfold State.writeWindow
  split
  · split
    · exact acts_writeRegister s _ d
    · exact .refl s
  · split
    · unfold State.writeRegisterHalf
      split
      · exact .of_eq rfl
      · exact .of_eq rfl
      · split
        · exact .refl s
        · exact acts_writeRegister s _ _
    · exact .refl s
  · exact .refl s

theorem acts_identify : ∃ t, execIdentify c s = .next t ∧ Acts s t := by
  refine ⟨_, rfl, ?_⟩
  split
  · rename_i hr
    split
    · exact .answer hr _ _
    · refine .of_eq ((frame_queuePosted _ _).board.trans ?_)
      rw [State.setProgress, board_setCtx]
      refine (congrArg (s.board.setFetch c) ?_).trans (Board.setFetch_of_none (State.fetching_of_requestOf hr))
      cases s.ctx c <;> rfl
  · exact .refl s

theorem acts_identifyRecordIssued (n : Fin 64) : ∃ t, execIdentifyRecordIssued c n s = .next t ∧ Acts s t := by
  refine ⟨_, rfl, ?_⟩
  split
  · rename_i rest hi _
    have quiet := State.ctx_of_identityOf hi
    split
    · dsimp only
      split
      · have placed := frame_placePrefix { s with hp := { s.hp with posted := rest } } c
        refine (Acts.of_eq (placed _ _).board).answered ?_ _ _
        rw [State.ctx, (placed _ _).rqe]
        exact quiet
      · exact Acts.answered (u := State.place { s with hp := { s.hp with posted := rest } } _) (.of_eq rfl) quiet _ _
    · exact .refl s
  · exact .refl s

end hostPort

/-- Every command takes the slots through moves. -/
theorem exec_acts : ∀ (i : Instr) (s : State), ∃ t, exec i s = .next t ∧ Acts s t
  | .enable, s => ⟨_, rfl, acts_writeEnable s true⟩
  | .teardown, s => ⟨_, rfl, acts_writeEnable s false⟩
  | .teardownEnd, s => acts_teardownEnd s
  | .reset _, _ => ⟨_, rfl, .move .reset rfl⟩
  | .busMasterEnableChange _, _ => ⟨_, rfl, .of_eq rfl⟩
  | .registerWrite o a d, s => acts_registerWrite s o a d
  | .timeLowRead, _ => ⟨_, rfl, .of_eq rfl⟩
  | .post d, s => ⟨_, rfl, .of_eq (board_writePost s d)⟩
  | .release d, s => ⟨_, rfl, .of_completion (frame_writeRelease s d)⟩
  | .requestGrant, s => acts_requestGrant s
  | .entryTaken c e, s => acts_entryTaken c s e
  | .entryFetchFailed c, s => acts_entryFetchFailed c s
  | .entryFetchTimeout c, s => acts_entryFetchTimeout c s
  | .staleReadData _, _ => ⟨_, rfl, .of_eq rfl⟩
  | .arm c, s => acts_arm c s
  | .listFetchDone c x, s => acts_listFetchDone c s x
  | .listFetchTimeout c, s => acts_listFetchTimeout c s
  | .cancel c, s => acts_cancel c s
  | .cancelAll c, s => acts_cancelAll c s
  | .amend c, s => acts_amend c s
  | .query c, s => acts_query c s
  | .setTenantLimits c, s => acts_setTenantLimits c s
  | .setTime c, s => acts_setTime c s
  | .stepTime c, s => acts_stepTime c s
  | .slewTime c, s => acts_slewTime c s
  | .readTimeState c, s => acts_readTimeState c s
  | .slewExpired, _ => ⟨_, rfl, .of_eq rfl⟩
  | .timebaseCeiling n, s => acts_timebaseCeiling s n
  | .holdDispatch c, s => acts_holdDispatch c s
  | .resumeDispatch c, s => acts_resumeDispatch c s
  | .setDispatch c, s => acts_setDispatch c s
  | .configureInputLine c, s => acts_configureInputLine c s
  | .grantLine c, s => acts_grantLine c s
  | .revokeLine c, s => acts_revokeLine c s
  | .setWindow c, s => acts_setWindow c s
  | .clearWindow c, s => acts_clearWindow c s
  | .createSubmissionRing c, s => acts_createSubmissionRing c s
  | .deleteSubmissionRing c, s => acts_deleteSubmissionRing c s
  | .createCompletionRing c, s => acts_createCompletionRing c s
  | .tuneCompletionRing c, s => acts_tuneCompletionRing c s
  | .deleteCompletionRing c, s => acts_deleteCompletionRing c s
  | .identify c, s => acts_identify c s
  | .identifyRecordIssued c n, s => acts_identifyRecordIssued c s n
  | .stage, s => ⟨_, rfl, acts_stageHead s⟩
  | .instanceStart e, s => acts_instanceStart e s
  | .budgetExpired e, s => acts_budgetExpired e s
  | .dspStepEvent, s => acts_dspStepEvent s
  | .readDataReturned e d, s => acts_readDataReturned e s d
  | .maskedWriteReadReturned e d, s => acts_maskedWriteReadReturned e s d
  | .pollReadReturned e d, s => acts_pollReadReturned e s d
  | .readFailed e, s => acts_readFailed e s
  | .readTimeout e, s => acts_readTimeout e s
  | .writeAcceptedByLink e, s => acts_writeAcceptedByLink e s
  | .pollSpacingElapsed e, s => acts_pollSpacingElapsed e s
  | .pollLimitExpired e, s => acts_pollLimitExpired e s
  | .waitElapsed e, s => acts_waitElapsed e s
  | .lineRequest e, s => acts_lineRequest e s
  | .inputEdge l k, s => acts_inputEdge s l k
  | .gateOpen, s => acts_gateOpen s
  | .gateClose, s => acts_gateClose s
  | .lnuStepEvent, s => acts_lnuStepEvent s
  | .cuWriteAcceptedByLink, s => acts_cuWriteAcceptedByLink s
  | .holdTimerExpired q, s => acts_holdTimerExpired s q
  | .completionWriteFailed, s => acts_completionWriteFailed s
  | .timebaseAdvance n, s => ⟨_, rfl, .of_eq (board_period s n)⟩

theorem Acts.of_exec {i : Instr} {s t : State} (h : exec i s = .next t) : Acts s t := by
  obtain ⟨u, hu, m⟩ := exec_acts i s
  rw [h] at hu
  cases hu
  exact m

end Sys2Proof.Machine

/-! The moves of the slots keep the order of the firing schedule and of the gate calendar, and the limits of the store. -/

namespace Sys2Proof.Machine

open Sys2Proof

/-! ## The orders (R65, R122) -/

/-- Both orders of a board are kept. -/
def Board.InOrder (b : Board) : Prop := Ordered b.schedule ∧ Ordered b.calendar

namespace Board.InOrder

variable {b : Board}

theorem unplace (h : b.InOrder) (gone : Nat → Bool) : (b.unplace gone).InOrder := ⟨h.1.filter _, h.2.filter _⟩

theorem schedulePut (h : b.InOrder) (t : TimedEntry) : (b.schedulePut t).InOrder := ⟨insertTimed_ordered t h.1, h.2⟩

theorem enterSchedule (h : b.InOrder) (id : Nat) (x : Slot) (due : Nat) (n : Word64) :
    (b.enterSchedule id x due n).InOrder := schedulePut (b := b.put id _) h _

theorem enterCalendar (h : b.InOrder) (id : Nat) (x : Slot) (st : SlotState) (key : Nat) (n : Word64) :
    (b.enterCalendar id x st key n).InOrder := ⟨h.1, insertTimed_ordered _ h.2⟩

theorem listenPush (h : b.InOrder) (l : Fin 4) (id : Nat) : (b.listenPush l id).InOrder := h

theorem free (h : b.InOrder) (id : Nat) : (b.free id).InOrder := h.unplace (fun k => k == id)

end Board.InOrder

theorem BoardMove.inOrder {b b' : Board} (m : BoardMove b b') (h : b.InOrder) : b'.InOrder := by
  cases m with
  | armSchedule due n => exact h.enterSchedule _ _ due n
  | armCalendar n => exact h.enterCalendar _ _ _ _ n
  | armFetch => exact h
  | fetchFails => exact h.free _
  | fetchSchedule due n => exact h.enterSchedule _ _ due n
  | fetchCalendar n => exact h.enterCalendar _ _ _ _ n
  | remove => exact h.free _
  | change => exact h
  | sweep => exact ⟨h.1.filter _, h.2.filter _⟩
  | reenter due n => exact (h.unplace _).enterSchedule _ _ due n
  | openGate n => exact ((h.unplace _).enterCalendar _ _ _ _ n).listenPush _ _
  | dropSchedule head =>
    have tail : Ordered b.schedule.tail := h.1.tail
    rw [head] at tail
    exact ⟨tail, h.2⟩
  | dropCalendar head =>
    have tail : Ordered b.calendar.tail := h.2.tail
    rw [head] at tail
    exact ⟨h.1, tail⟩
  | stage head =>
    have tail : Ordered b.schedule.tail := h.1.tail
    rw [head] at tail
    exact ⟨tail, h.2⟩
  | start => exact h
  | stray => exact h
  | endFree => exact h.free _
  | endAgain next n => exact Board.InOrder.enterSchedule (b := b.setEngine _ _) h _ _ next n
  | unbind => exact h.schedulePut _
  | halt => exact h
  | teardown => exact ⟨.nil, .nil⟩
  | quota => exact h
  | reset => exact ⟨.nil, .nil⟩

/-- A law of the board that every move keeps is kept by every chain of moves. -/
theorem Acts.keeps {P : Board → Prop} (kept : ∀ b b', BoardMove b b' → P b → P b') {s t : State} (h : Acts s t)
    (law : P s.board) : P t.board := by
  have along (b : Board) (chain : Relation.ReflTransGen BoardMove s.board b) : P b := by
    induction chain with
    | refl => exact law
    | tail _ m ih => exact kept _ _ m ih
  exact along _ h

/-- Settles O26: every move of the slots inserts an entry at its place or takes entries out. -/
theorem orderLawIsKept : Obligations.OrderLawIsKept := by
  unfold Obligations.OrderLawIsKept
  refine step_keeps (fun _ _ h => h) (fun i s t law h => ?_)
  exact (Acts.of_exec h).keeps (P := Board.InOrder) (fun _ _ m => m.inOrder) law

/-! ## The limits of the store (R41, R45, R46) -/

/-- What the limits of the store look at in a slot. -/
def slotKey (p : Nat × Slot) : Nat × Fin 16 × Word32 × Nat := (p.1, p.2.ring, p.2.tag, p.2.tenant)

def slotKeys (l : List (Nat × Slot)) : List (Nat × Fin 16 × Word32 × Nat) := l.map slotKey

/-- The limits of the store over the keys of its slots and the quotas. -/
structure KeysLaw (l : List (Nat × Fin 16 × Word32 × Nat)) (quotas : Fin 16 → Nat) : Prop where
  rising : l.Pairwise (fun a b => a.1 < b.1)
  number : ∀ p ∈ l, p.1 < Config.slotCount
  tags : l.Pairwise (fun a b => ¬ (a.2.1 = b.2.1 ∧ a.2.2.1 = b.2.2.1))
  quota : ∀ n : Fin 16, n ≠ 0 → l.countP (fun p => p.2.2.2 == n.val) ≤ quotas n ∧ quotas n ≤ Config.maxQuota

def Board.Store (b : Board) : Prop := KeysLaw (slotKeys b.slots) b.quotas

theorem storeLaw_iff (s : State) : StoreLaw s ↔ s.board.Store := by
  have count (n : Fin 16) : (slotKeys s.ast.slots).countP (fun p => p.2.2.2 == n.val) = s.holdings n.val := by
    rw [slotKeys, List.countP_map]
    rfl
  constructor
  · rintro ⟨rising, number, tags, quota⟩
    refine ⟨List.pairwise_map.2 rising, ?_, List.pairwise_map.2 tags, fun n hn => ?_⟩
    · intro p hp
      obtain ⟨q, hq, rfl⟩ := List.mem_map.1 hp
      exact number q hq
    · rw [board_slots, count]
      exact quota n hn
  · rintro ⟨rising, number, tags, quota⟩
    refine ⟨rising.of_map slotKey (fun _ _ h => h), fun p hp => number _ (List.mem_map_of_mem hp),
      tags.of_map slotKey (fun _ _ h => h),
      fun n hn => ?_⟩
    rw [← count]
    exact quota n hn

theorem Board.Store.rising {b : Board} (h : b.Store) : Rising b.slots :=
  List.Pairwise.of_map slotKey (fun _ _ h => h) (KeysLaw.rising h)

/-- Fewer slots under the same quotas keep the limits. -/
theorem KeysLaw.sublist {l l' : List (Nat × Fin 16 × Word32 × Nat)} {quotas : Fin 16 → Nat} (h : KeysLaw l quotas)
    (sub : l'.Sublist l) : KeysLaw l' quotas :=
  ⟨h.rising.sublist sub, fun p hp => h.number p (sub.subset hp), h.tags.sublist sub,
    fun n hn => ⟨(sub.countP_le).trans (h.quota n hn).1, (h.quota n hn).2⟩⟩

/-- A slot that keeps its ring, tag and tenant keeps the keys. -/
theorem slotKeys_slotPut {l : List (Nat × Slot)} {id : Nat} {x y : Slot} (rising : Rising l)
    (slot : slotGet l id = some x) (same : x.SameAction y) : slotKeys (slotPut l id y) = slotKeys l := by
  induction l with
  | nil => cases slot
  | cons p rest ih =>
    obtain ⟨k, z⟩ := p
    obtain ⟨above, rising⟩ := List.pairwise_cons.1 rising
    by_cases hk : k = id
    · subst hk
      simp only [slotGet, if_true, Option.some.injEq] at slot
      subst slot
      simp [slotPut, slotKeys, slotKey, same.ring, same.tag, same.tenant]
    · simp only [slotGet, if_neg hk] at slot
      have : k < id := above _ (slotGet_mem slot)
      rw [slotPut, if_neg (by omega), if_neg (by omega)]
      exact congrArg (_ :: ·) (ih rising slot)

/-- A FREE number is added to the keys. -/
theorem slotPut_perm {l : List (Nat × Slot)} {id : Nat} (x : Slot) (free : slotGet l id = none) :
    (slotPut l id x).Perm ((id, x) :: l) := by
  induction l with
  | nil => exact .refl _
  | cons p rest ih =>
    obtain ⟨k, z⟩ := p
    by_cases hk : k = id
    · simp [slotGet, hk] at free
    · simp only [slotGet, if_neg hk] at free
      rw [slotPut]
      split
      · exact .refl _
      · rw [if_neg (Ne.symm hk)]
        exact ((ih free).cons _).trans (.swap _ _ _)

/-- A new action that the store admits keeps the limits. -/
theorem KeysLaw.arm {b : Board} {id : Nat} {x y : Slot} (h : b.Store) (admits : b.Admits id x) (same : x.SameAction y) :
    KeysLaw (slotKeys (slotPut b.slots id y)) b.quotas := by
  obtain ⟨free, range⟩ := admits.number h.rising
  have perm := slotPut_perm y free
  have keys : (slotKeys (slotPut b.slots id y)).Perm (slotKey (id, y) :: slotKeys b.slots) := perm.map slotKey
  refine ⟨List.pairwise_map.2 (slotPut_rising id y h.rising), fun p hp => ?_, ?_, fun n hn => ?_⟩
  · rcases List.mem_cons.1 (keys.mem_iff.1 hp) with rfl | hp
    · exact range
    · exact KeysLaw.number h p hp
  · refine (keys.pairwise_iff (fun {a c} hac => ?_)).2 (List.pairwise_cons.2 ⟨fun p hp hk => ?_, KeysLaw.tags h⟩)
    · exact fun hk => hac ⟨hk.1.symm, hk.2.symm⟩
    · obtain ⟨q, hq, rfl⟩ := List.mem_map.1 hp
      exact admits.tag q hq ⟨hk.1.symm.trans same.ring, hk.2.symm.trans same.tag⟩
  · obtain ⟨held, valid⟩ := KeysLaw.quota h n hn
    refine ⟨?_, valid⟩
    rw [keys.countP_eq, List.countP_cons]
    split
    · rename_i tenant
      have tenant : n.val = x.tenant := (beq_iff_eq.1 tenant).symm.trans same.tenant
      have room := admits.quota n tenant
      have : b.slots.countP (fun p => p.2.tenant == n.val) = (slotKeys b.slots).countP (fun p => p.2.2.2 == n.val) := by
        rw [slotKeys, List.countP_map]
        rfl
      omega
    · exact held

/-- A slot keeps its action when only its state, its times and its counters change. -/
theorem Board.Store.put {b : Board} {id : Nat} {x y : Slot} (h : b.Store) (slot : slotGet b.slots id = some x)
    (same : x.SameAction y) : (b.put id y).Store := by
  show KeysLaw (slotKeys (slotPut b.slots id y)) b.quotas
  rw [slotKeys_slotPut h.rising slot same]
  exact h

theorem Board.Store.free {b : Board} (h : b.Store) (id : Nat) : (b.free id).Store :=
  KeysLaw.sublist h (List.filter_sublist.map slotKey)

/-- The sweep takes slots out and marks others, which keeps their keys. -/
theorem slotKeys_sweepSlots (r : Fin 16) (l : List (Nat × Slot)) : (slotKeys (sweepSlots r l)).Sublist (slotKeys l) := by
  have marked : slotKeys (sweepSlots r l) = slotKeys (l.filter (fun p => !sweepRemoves r p.2)) := by
    rw [slotKeys, sweepSlots, List.map_map]
    refine List.map_congr_left (fun p _ => ?_)
    simp only [Function.comp]
    split <;> rfl
  rw [marked]
  exact List.filter_sublist.map slotKey

theorem Slot.SameAction.trans {x y z : Slot} (h : x.SameAction y) (k : y.SameAction z) : x.SameAction z :=
  ⟨k.ring.trans h.ring, k.tag.trans h.tag, k.tenant.trans h.tenant⟩

theorem store_reset : State.reset.board.Store := by
  rw [← storeLaw_iff]
  decide +kernel

theorem BoardMove.store {b b' : Board} (m : BoardMove b b') (h : b.Store) : b'.Store := by
  cases m with
  | armSchedule due n admits => exact KeysLaw.arm h admits ⟨rfl, rfl, rfl⟩
  | armCalendar n admits => exact KeysLaw.arm h admits ⟨rfl, rfl, rfl⟩
  | armFetch admits => exact KeysLaw.arm h admits (.refl _)
  | fetchFails => exact h.free _
  | fetchSchedule due n _ slot same => exact h.put slot (same.trans ⟨rfl, rfl, rfl⟩)
  | fetchCalendar n _ slot same => exact h.put slot (same.trans ⟨rfl, rfl, rfl⟩)
  | remove => exact h.free _
  | change slot same => exact h.put (slot h.rising) same.toSameAction
  | sweep r => exact KeysLaw.sublist h (slotKeys_sweepSlots r _)
  | reenter due n slot _ same => exact h.put (slot h.rising) (same.trans ⟨rfl, rfl, rfl⟩)
  | openGate n slot => exact h.put slot ⟨rfl, rfl, rfl⟩
  | dropSchedule => exact h
  | dropCalendar => exact h
  | stage _ slot => exact h.put slot ⟨rfl, rfl, rfl⟩
  | start v _ slot => exact h.put slot ⟨rfl, rfl, rfl⟩
  | stray => exact h
  | endFree => exact h.free _
  | endAgain next n _ _ slot same => exact h.put slot (same.trans ⟨rfl, rfl, rfl⟩)
  | unbind _ slot => exact h.put slot ⟨rfl, rfl, rfl⟩
  | halt => exact h
  | teardown => exact KeysLaw.sublist h (List.filter_sublist.map slotKey)
  | quota n q valid held =>
    refine ⟨KeysLaw.rising h, KeysLaw.number h, KeysLaw.tags h, fun k hk => ?_⟩
    show _ ≤ Function.update b.quotas n q k ∧ Function.update b.quotas n q k ≤ _
    by_cases same : k = n
    · subst same
      have : (slotKeys b.slots).countP (fun p => p.2.2.2 == k.val) = b.slots.countP (fun p => p.2.tenant == k.val) := by
        rw [slotKeys, List.countP_map]
        rfl
      rw [Function.update_self]
      exact ⟨this.trans_le held, valid⟩
    · rw [Function.update_of_ne same]
      exact KeysLaw.quota h k hk
  | reset => exact store_reset

/-- Settles O24: every move admits a new action under the checks of R49, keeps the keys of the slots, or takes slots out. -/
theorem storeLawIsKept : Obligations.StoreLawIsKept := by
  unfold Obligations.StoreLawIsKept
  refine step_keeps (fun _ _ h => h) (fun i s t law h => ?_)
  rw [storeLaw_iff] at law ⊢
  exact (Acts.of_exec h).keeps (fun _ _ m => m.store) law

end Sys2Proof.Machine

/-! Every move of the slots leaves each of them in the one place that its state names (R42). -/

namespace Sys2Proof.Machine

open Sys2Proof

/-! ## The seat of a slot -/

/-- At most one entry of each kind of place. -/
structure Seat where
  schedule : Option TimedEntry := none
  calendar : Option TimedEntry := none
  line : Option (Fin 4) := none
  engine : Option (Fin 4) := none
  context : Option (Fin 8) := none

namespace Board

variable {b : Board}

/-- The engine is not IDLE and has this slot. -/
def Holds (b : Board) (e : Fin 4) (id : Nat) : Prop := (b.engines e).1 ≠ .idle ∧ (b.engines e).2.1 = id

/-- The places of the board hold the slot just as the seat says. -/
structure Seats (b : Board) (id : Nat) (p : Seat) : Prop where
  schedule : b.schedule.filter (fun t => t.slot == id) = p.schedule.toList
  calendar : b.calendar.filter (fun t => t.slot == id) = p.calendar.toList
  line : ∀ l, (b.listen l).count id = if p.line = some l then 1 else 0
  engine : ∀ e, b.Holds e id ↔ p.engine = some e
  context : ∀ c, b.fetching c = some id ↔ p.context = some c

/-- The seat that the state of a slot names; none for a FREE slot. -/
inductive Sits (b : Board) (id : Nat) : Option Slot → Seat → Prop
  | free : Sits b id none {}
  | pending {x : Slot} (state : x.state = .pending) (c : Fin 8) : Sits b id (some x) { context := some c }
  | armed {x : Slot} (state : x.state = .armed) :
      Sits b id (some x) { schedule := some { slot := id, time := x.due, seq := x.seq } }
  | awaiting {x : Slot} {g : Gate} (state : x.state = .awaiting) (gate : x.gate = some g) :
      Sits b id (some x) { calendar := some { slot := id, time := g.openTime, seq := x.seq } }
  | listening {x : Slot} {g : Gate} (state : x.state = .listening) (gate : x.gate = some g) :
      Sits b id (some x) { calendar := some { slot := id, time := g.closeTime, seq := x.seq }, line := some g.line }
  | staged {x : Slot} {e : Fin 4} (state : x.state = .staged)
      (engine : b.engines e = (.bound, id, x.due) ∨ b.engines e = (.halted, id, x.due)) :
      Sits b id (some x) { engine := some e }
  | firing {x : Slot} {e : Fin 4} (state : x.state = .firing)
      (engine : b.engines e = (.running, id, x.due) ∨ b.engines e = (.halted, id, x.due)) :
      Sits b id (some x) { engine := some e }

/-- Every slot is in the one place that its state names, and a FREE slot is in none (R42). -/
def Placed (b : Board) : Prop := ∀ id, ∃ p, b.Seats id p ∧ b.Sits id (slotGet b.slots id) p

/-! ## How the updates seat the slot that they move -/

namespace Seats

variable {id : Nat} {p : Seat}

theorem put (h : b.Seats id p) (k : Nat) (x : Slot) : (b.put k x).Seats id p :=
  ⟨h.schedule, h.calendar, h.line, h.engine, h.context⟩

theorem filter_unplaced (l : List TimedEntry) (gone : Nat → Bool) (k : Nat) :
    (l.filter (fun t => !gone t.slot)).filter (fun t => t.slot == k)
      = if gone k then [] else l.filter (fun t => t.slot == k) := by
  rw [List.filter_filter]
  split
  · rename_i hk
    refine List.filter_eq_nil_iff.2 (fun t _ => ?_)
    simp only [Bool.and_eq_true, beq_iff_eq, Bool.not_eq_true', not_and]
    rintro rfl
    simp [hk]
  · rename_i hk
    refine List.filter_congr (fun t _ => ?_)
    by_cases same : t.slot = k
    · subst same
      simp [hk]
    · simp [same]

theorem count_unplaced (l : List Nat) (gone : Nat → Bool) (k : Nat) :
    (l.filter (fun n => !gone n)).count k = if gone k then 0 else l.count k := by
  split
  · rename_i hk
    refine List.count_eq_zero.2 (fun hm => ?_)
    have := (List.mem_filter.1 hm).2
    simp [hk] at this
  · rename_i hk
    exact List.count_filter (by simp [hk])

/-- A slot that is taken out of its place keeps its engine and its context. -/
theorem unplace (h : b.Seats id p) {gone : Nat → Bool} (out : gone id = true) :
    (b.unplace gone).Seats id { engine := p.engine, context := p.context } := by
  refine ⟨?_, ?_, fun l => ?_, h.engine, h.context⟩
  · exact (filter_unplaced _ gone id).trans (by rw [if_pos out]; rfl)
  · exact (filter_unplaced _ gone id).trans (by rw [if_pos out]; rfl)
  · exact (count_unplaced _ gone id).trans (by simp [out])

theorem unplace_of_not (h : b.Seats id p) {gone : Nat → Bool} (out : gone id = false) : (b.unplace gone).Seats id p := by
  refine ⟨?_, ?_, fun l => ?_, h.engine, h.context⟩
  · exact (filter_unplaced _ gone id).trans (by rw [if_neg (by simp [out])]; exact h.schedule)
  · exact (filter_unplaced _ gone id).trans (by rw [if_neg (by simp [out])]; exact h.calendar)
  · exact (count_unplaced _ gone id).trans (by rw [if_neg (by simp [out])]; exact h.line l)

theorem filter_insertTimed_self {t : TimedEntry} {l : List TimedEntry}
    (none : l.filter (fun u => u.slot == t.slot) = []) : (insertTimed t l).filter (fun u => u.slot == t.slot) = [t] := by
  have perm := (insertTimed_perm t l).filter (fun u => u.slot == t.slot)
  rw [List.filter_cons, if_pos (by simp), none] at perm
  exact List.perm_singleton.1 perm

theorem schedulePut (h : b.Seats id p) {t : TimedEntry} (slot : t.slot = id) (none : p.schedule = none) :
    (b.schedulePut t).Seats id { p with schedule := some t } := by
  subst slot
  refine ⟨?_, h.calendar, h.line, h.engine, h.context⟩
  exact filter_insertTimed_self (by rw [h.schedule, none]; rfl)

theorem calendarPut (h : b.Seats id p) {t : TimedEntry} (slot : t.slot = id) (none : p.calendar = none) :
    (b.calendarPut t).Seats id { p with calendar := some t } := by
  subst slot
  refine ⟨h.schedule, ?_, h.line, h.engine, h.context⟩
  exact filter_insertTimed_self (by rw [h.calendar, none]; rfl)

theorem enterSchedule (h : b.Seats id p) (none : p.schedule = none) (x : Slot) (due : Nat) (n : Word64) :
    (b.enterSchedule id x due n).Seats id { p with schedule := some { slot := id, time := due, seq := n } } :=
  (h.put id _).schedulePut rfl none

theorem enterCalendar (h : b.Seats id p) (none : p.calendar = none) (x : Slot) (st : SlotState) (key : Nat) (n : Word64) :
    (b.enterCalendar id x st key n).Seats id { p with calendar := some { slot := id, time := key, seq := n } } :=
  (h.put id _).calendarPut rfl none

theorem listenPush (h : b.Seats id p) (l : Fin 4) (none : p.line = none) :
    (b.listenPush l id).Seats id { p with line := some l } := by
  refine ⟨h.schedule, h.calendar, fun k => ?_, h.engine, h.context⟩
  have before := h.line k
  rw [none, if_neg (by simp)] at before
  show (Function.update b.listen l (b.listen l ++ [id]) k).count id = _
  by_cases hk : k = l
  · subst hk
    rw [Function.update_self, if_pos rfl, List.count_append, before]
    simp
  · rw [Function.update_of_ne hk, if_neg (by simp [Ne.symm hk]), before]

/-- An engine takes the slot that no other engine holds. -/
theorem hold (h : b.Seats id p) {e : Fin 4} {v : EngineState × Nat × Nat} (only : ∀ f, p.engine = some f → f = e)
    (busy : v.1 ≠ .idle) (slot : v.2.1 = id) : (b.setEngine e v).Seats id { p with engine := some e } := by
  refine ⟨h.schedule, h.calendar, h.line, fun f => ?_, h.context⟩
  show (Function.update b.engines e v f).1 ≠ .idle ∧ (Function.update b.engines e v f).2.1 = id ↔ _
  by_cases hf : f = e
  · subst hf
    simp [busy, slot]
  · rw [Function.update_of_ne hf]
    refine ⟨fun held => absurd (only f ((h.engine f).1 held)) hf, fun held => absurd (Option.some.inj held).symm hf⟩

/-- The engine lets go of the slot that no other engine holds. -/
theorem release (h : b.Seats id p) {e : Fin 4} {v : EngineState × Nat × Nat} (only : ∀ f, p.engine = some f → f = e)
    (idle : v.1 = .idle) : (b.setEngine e v).Seats id { p with engine := none } := by
  refine ⟨h.schedule, h.calendar, h.line, fun f => ?_, h.context⟩
  show (Function.update b.engines e v f).1 ≠ .idle ∧ (Function.update b.engines e v f).2.1 = id ↔ _
  by_cases hf : f = e
  · subst hf
    simp [idle]
  · rw [Function.update_of_ne hf]
    refine ⟨fun held => absurd (only f ((h.engine f).1 held)) hf, nofun⟩

theorem fetch (h : b.Seats id p) (c : Fin 8) (only : ∀ d, p.context = some d → d = c) :
    (b.setFetch c (some id)).Seats id { p with context := some c } := by
  refine ⟨h.schedule, h.calendar, h.line, h.engine, fun d => ?_⟩
  show Function.update b.fetching c (some id) d = some id ↔ _
  by_cases hd : d = c
  · subst hd
    simp
  · rw [Function.update_of_ne hd]
    refine ⟨fun held => absurd (only d ((h.context d).1 held)) hd, fun held => absurd (Option.some.inj held).symm hd⟩

theorem fetched (h : b.Seats id p) (c : Fin 8) (only : ∀ d, p.context = some d → d = c) :
    (b.setFetch c none).Seats id { p with context := none } := by
  refine ⟨h.schedule, h.calendar, h.line, h.engine, fun d => ?_⟩
  show Function.update b.fetching c none d = some id ↔ _
  by_cases hd : d = c
  · subst hd
    simp
  · rw [Function.update_of_ne hd]
    refine ⟨fun held => absurd (only d ((h.context d).1 held)) hd, nofun⟩

/-- The head leaves the schedule. -/
theorem dropHead (h : b.Seats id p) {t : TimedEntry} {rest : List TimedEntry} (head : b.schedule = t :: rest)
    (slot : t.slot = id) : p.schedule = some t ∧ ({ b with schedule := rest } : Board).Seats id { p with schedule := none } := by
  have seat := h.schedule
  rw [head, List.filter_cons, if_pos (by simp [slot])] at seat
  cases hp : p.schedule with
  | none =>
    rw [hp] at seat
    cases seat
  | some u =>
    rw [hp] at seat
    simp only [Option.toList_some, List.cons.injEq] at seat
    exact ⟨by rw [seat.1], seat.2, h.calendar, h.line, h.engine, h.context⟩

end Seats

/-! ## What a move of one slot leaves alone -/

/-- The two boards hold every other slot alike. -/
structure Apart (id : Nat) (b b' : Board) : Prop where
  slots : ∀ k, k ≠ id → slotGet b'.slots k = slotGet b.slots k
  schedule : ∀ k, k ≠ id → b'.schedule.filter (fun t => t.slot == k) = b.schedule.filter (fun t => t.slot == k)
  calendar : ∀ k, k ≠ id → b'.calendar.filter (fun t => t.slot == k) = b.calendar.filter (fun t => t.slot == k)
  listen : ∀ k, k ≠ id → ∀ l, (b'.listen l).count k = (b.listen l).count k
  engines : ∀ k, k ≠ id → ∀ e, b.Holds e k ∨ b'.Holds e k → b'.engines e = b.engines e
  fetching : ∀ k, k ≠ id → ∀ c, b'.fetching c = some k ↔ b.fetching c = some k

namespace Apart

variable {id : Nat} {a : Board}

theorem refl (id : Nat) (b : Board) : Apart id b b :=
  ⟨fun _ _ => rfl, fun _ _ => rfl, fun _ _ => rfl, fun _ _ _ => rfl, fun _ _ _ _ => rfl, fun _ _ _ => .rfl⟩

theorem put (h : Apart id a b) (x : Slot) : Apart id a (b.put id x) :=
  { h with slots := fun k hk => (slotGet_slotPut_of_ne _ x hk).trans (h.slots k hk) }

theorem unplace (h : Apart id a b) : Apart id a (b.unplace (fun k => k == id)) where
  slots := h.slots
  schedule k hk :=
    (Seats.filter_unplaced b.schedule (fun n => n == id) k).trans (by rw [if_neg (by simpa using hk)]; exact h.schedule k hk)
  calendar k hk :=
    (Seats.filter_unplaced b.calendar (fun n => n == id) k).trans (by rw [if_neg (by simpa using hk)]; exact h.calendar k hk)
  listen k hk l := (Seats.count_unplaced (b.listen l) (fun n => n == id) k).trans (by rw [if_neg (by simpa using hk)]; exact h.listen k hk l)
  engines := h.engines
  fetching := h.fetching

theorem free (h : Apart id a b) : Apart id a (b.free id) :=
  { h.unplace with slots := fun k hk => (slotGet_slotDel_of_ne _ hk).trans (h.slots k hk) }

theorem filter_insertTimed_of_ne {t : TimedEntry} {k : Nat} (hk : k ≠ t.slot) (l : List TimedEntry) :
    (insertTimed t l).filter (fun u => u.slot == k) = l.filter (fun u => u.slot == k) := by
  induction l with
  | nil => simp [insertTimed, Ne.symm hk]
  | cons y rest ih =>
    rw [insertTimed]
    split
    · rw [List.filter_cons, if_neg (by simp [Ne.symm hk])]
    · rw [List.filter_cons, List.filter_cons, ih]

theorem schedulePut (h : Apart id a b) {t : TimedEntry} (slot : t.slot = id) : Apart id a (b.schedulePut t) :=
  { h with schedule := fun k hk => (filter_insertTimed_of_ne (slot ▸ hk) _).trans (h.schedule k hk) }

theorem calendarPut (h : Apart id a b) {t : TimedEntry} (slot : t.slot = id) : Apart id a (b.calendarPut t) :=
  { h with calendar := fun k hk => (filter_insertTimed_of_ne (slot ▸ hk) _).trans (h.calendar k hk) }

theorem enterSchedule (h : Apart id a b) (x : Slot) (due : Nat) (n : Word64) : Apart id a (b.enterSchedule id x due n) :=
  (h.put _).schedulePut rfl

theorem enterCalendar (h : Apart id a b) (x : Slot) (st : SlotState) (key : Nat) (n : Word64) :
    Apart id a (b.enterCalendar id x st key n) := (h.put _).calendarPut rfl

theorem listenPush (h : Apart id a b) (l : Fin 4) : Apart id a (b.listenPush l id) :=
  { h with
    listen := fun k hk m => by
      show (Function.update b.listen l (b.listen l ++ [id]) m).count k = _
      by_cases hm : m = l
      · subst hm
        rw [Function.update_self, List.count_append, (List.count_eq_zero (l := [id])).2 (by simpa using hk)]
        exact h.listen k hk m
      · rw [Function.update_of_ne hm]
        exact h.listen k hk m }

/-- An engine that has held no other slot changes and holds no other slot. -/
theorem setEngine (h : Apart id a b) {e : Fin 4} {v : EngineState × Nat × Nat} (old : ∀ k, b.Holds e k → k = id)
    (new : v.1 ≠ .idle → v.2.1 = id) : Apart id a (b.setEngine e v) :=
  { h with
    engines := fun k hk f held => by
      have same : f ≠ e → Function.update b.engines e v f = b.engines f := fun hf => Function.update_of_ne hf v b.engines
      have held : a.Holds f k ∨ (Function.update b.engines e v f).1 ≠ .idle ∧ (Function.update b.engines e v f).2.1 = k :=
        held
      show Function.update b.engines e v f = a.engines f
      by_cases hf : f = e
      · subst hf
        rw [Function.update_self] at held
        rcases held with held | ⟨busy, slot⟩
        · have kept := h.engines k hk f (.inl held)
          refine absurd (old k ?_) hk
          rw [Holds, kept]
          exact held
        · exact absurd (slot.symm.trans (new busy)) hk
      · rw [same hf] at held ⊢
        exact h.engines k hk f held }

theorem setFetch (h : Apart id a b) {c : Fin 8} {o : Option Nat} (old : ∀ k, b.fetching c = some k → k = id)
    (new : ∀ k, o = some k → k = id) : Apart id a (b.setFetch c o) :=
  { h with
    fetching := fun k hk d => by
      show Function.update b.fetching c o d = some k ↔ a.fetching d = some k
      by_cases hd : d = c
      · subst hd
        rw [Function.update_self]
        exact ⟨fun ho => absurd (new k ho) hk, fun ha => absurd (old k ((h.fetching k hk d).2 ha)) hk⟩
      · rw [Function.update_of_ne hd]
        exact h.fetching k hk d }

theorem dropHead {t : TimedEntry} {rest : List TimedEntry} (head : b.schedule = t :: rest) :
    Apart t.slot b { b with schedule := rest } :=
  { refl t.slot b with
    schedule := fun k hk => by
      rw [head, List.filter_cons, if_neg (by simp [Ne.symm hk])] }

theorem seats (h : Apart id a b) {k : Nat} (hk : k ≠ id) {p : Seat} (seat : a.Seats k p) : b.Seats k p where
  schedule := (h.schedule k hk).trans seat.schedule
  calendar := (h.calendar k hk).trans seat.calendar
  line l := (h.listen k hk l).trans (seat.line l)
  engine e := by
    refine Iff.trans ⟨fun held => ?_, fun held => ?_⟩ (seat.engine e)
    · rw [Holds, ← h.engines k hk e (.inr held)]
      exact held
    · rw [Holds, h.engines k hk e (.inl held)]
      exact held
  context c := (h.fetching k hk c).trans (seat.context c)

theorem sits (h : Apart id a b) {k : Nat} (hk : k ≠ id) {o : Option Slot} {p : Seat} (sits : a.Sits k o p) : b.Sits k o p := by
  have same {e : Fin 4} {st : EngineState} {due : Nat} (busy : st ≠ .idle) (held : a.engines e = (st, k, due)) :
      b.engines e = (st, k, due) := by
    rw [← held]
    refine h.engines k hk e (.inl ?_)
    rw [Holds, held]
    exact ⟨busy, rfl⟩
  cases sits with
  | free => exact .free
  | pending state c => exact .pending state c
  | armed state => exact .armed state
  | awaiting state gate => exact .awaiting state gate
  | listening state gate => exact .listening state gate
  | staged state engine => exact .staged state (engine.imp (same (by decide)) (same (by decide)))
  | firing state engine => exact .firing state (engine.imp (same (by decide)) (same (by decide)))

end Apart

/-- A move of one slot keeps the law once it seats that slot. -/
theorem Placed.moved {b' : Board} {id : Nat} {p : Seat} (h : b.Placed) (apart : Apart id b b') (seat : b'.Seats id p)
    (sits : b'.Sits id (slotGet b'.slots id) p) : b'.Placed := by
  intro k
  by_cases hk : k = id
  · subst hk
    exact ⟨p, seat, sits⟩
  · obtain ⟨q, hq, hs⟩ := h k
    refine ⟨q, apart.seats hk hq, ?_⟩
    rw [apart.slots k hk]
    exact apart.sits hk hs

end Board

end Sys2Proof.Machine

namespace Sys2Proof.Machine

open Sys2Proof

namespace Board

variable {b : Board}

/-! ## What the law says of a slot that a move finds -/

namespace Placed

variable {id : Nat} {x : Slot}

theorem seat_of_free (h : b.Placed) (free : slotGet b.slots id = none) : b.Seats id {} := by
  obtain ⟨p, seat, sits⟩ := h id
  rw [free] at sits
  cases sits
  exact seat

theorem seat_of_armed (h : b.Placed) (slot : slotGet b.slots id = some x) (state : x.state = .armed) :
    b.Seats id { schedule := some { slot := id, time := x.due, seq := x.seq } } := by
  obtain ⟨p, seat, sits⟩ := h id
  rw [slot] at sits
  cases sits <;> simp_all

theorem seat_of_awaiting {g : Gate} (h : b.Placed) (slot : slotGet b.slots id = some x) (state : x.state = .awaiting)
    (gate : x.gate = some g) : b.Seats id { calendar := some { slot := id, time := g.openTime, seq := x.seq } } := by
  obtain ⟨p, seat, sits⟩ := h id
  rw [slot] at sits
  cases sits <;> simp_all

/-- A slot that CANCEL removes stands in no engine and in no context. -/
theorem seat_of_removable (h : b.Placed) (slot : slotGet b.slots id = some x) (state : x.state.removable = true) :
    ∃ p, b.Seats id p ∧ p.engine = none ∧ p.context = none := by
  obtain ⟨p, seat, sits⟩ := h id
  refine ⟨p, seat, ?_⟩
  rw [slot] at sits
  cases sits <;> simp_all [SlotState.removable]

theorem seat_of_fetching {c : Fin 8} (h : b.Placed) (fetch : b.fetching c = some id) :
    b.Seats id { context := some c } := by
  obtain ⟨p, seat, sits⟩ := h id
  have context := (seat.context c).1 fetch
  generalize slotGet b.slots id = o at sits
  cases sits <;> cases context
  exact seat

/-- A slot that an engine holds is STAGED or FIRING there, with the due time that the engine was bound with. -/
theorem seat_of_engine {e : Fin 4} {st : EngineState} {due : Nat} (h : b.Placed)
    (engine : b.engines e = (st, id, due)) (busy : st ≠ .idle) :
    ∃ x, slotGet b.slots id = some x ∧ b.Seats id { engine := some e } ∧ x.due = due
      ∧ (x.state = .staged ∧ (st = .bound ∨ st = .halted) ∨ x.state = .firing ∧ (st = .running ∨ st = .halted)) := by
  obtain ⟨p, seat, sits⟩ := h id
  have held := (seat.engine e).1 (by rw [Holds, engine]; exact ⟨busy, rfl⟩)
  generalize ho : slotGet b.slots id = o at sits
  cases sits with
  | free => cases held
  | pending => cases held
  | armed => cases held
  | awaiting => cases held
  | listening => cases held
  | staged state bound =>
    cases held
    rw [engine] at bound
    refine ⟨_, rfl, seat, ?_, .inl ⟨state, ?_⟩⟩
    · rcases bound with bound | bound <;> cases bound <;> rfl
    · exact bound.imp (congrArg Prod.fst) (congrArg Prod.fst)
  | firing state bound =>
    cases held
    rw [engine] at bound
    refine ⟨_, rfl, seat, ?_, .inr ⟨state, ?_⟩⟩
    · rcases bound with bound | bound <;> cases bound <;> rfl
    · exact bound.imp (congrArg Prod.fst) (congrArg Prod.fst)

/-- The head of the schedule is the entry of an ARMED slot. -/
theorem armed_of_schedule {t : TimedEntry} (h : b.Placed) (mem : t ∈ b.schedule) :
    ∃ x, slotGet b.slots t.slot = some x ∧ x.state = .armed ∧ t = { slot := t.slot, time := x.due, seq := x.seq } := by
  obtain ⟨p, seat, sits⟩ := h t.slot
  have entry : t ∈ p.schedule.toList := seat.schedule ▸ List.mem_filter.2 ⟨mem, by simp⟩
  generalize slotGet b.slots t.slot = o at sits
  cases sits with
  | armed state => exact ⟨_, rfl, state, by simpa using entry⟩
  | free => cases entry
  | pending => cases entry
  | awaiting => cases entry
  | listening => cases entry
  | staged => cases entry
  | firing => cases entry

/-- The head of the calendar is the entry of an AWAITING or LISTENING slot with a gate. -/
theorem gated_of_calendar {t : TimedEntry} (h : b.Placed) (mem : t ∈ b.calendar) :
    ∃ x g, slotGet b.slots t.slot = some x ∧ x.gate = some g ∧ (x.state = .awaiting ∨ x.state = .listening) := by
  obtain ⟨p, seat, sits⟩ := h t.slot
  have entry : t ∈ p.calendar.toList := seat.calendar ▸ List.mem_filter.2 ⟨mem, by simp⟩
  generalize slotGet b.slots t.slot = o at sits
  cases sits with
  | awaiting state gate => exact ⟨_, _, rfl, gate, .inl state⟩
  | listening state gate => exact ⟨_, _, rfl, gate, .inr state⟩
  | free => cases entry
  | pending => cases entry
  | armed => cases entry
  | staged => cases entry
  | firing => cases entry

end Placed

/-- An engine in a given hold has no other slot. -/
theorem holds_only {e : Fin 4} {st : EngineState} {id due : Nat} (engine : b.engines e = (st, id, due)) (k : Nat)
    (held : b.Holds e k) : k = id := by
  rw [Holds, engine] at held
  exact held.2.symm

theorem released_idle : Engine.released.hold.1 = .idle := rfl

/-! ## Each move -/

/-- A slot in the place of its state, whatever else of it has changed. -/
theorem Sits.samePlace {id : Nat} {x y : Slot} {p : Seat} (h : b.Sits id (some x) p) (same : x.SamePlace y) :
    b.Sits id (some y) p := by
  have gate := same.gate
  have state := same.state
  have due := same.due
  have seq := same.seq
  cases h with
  | pending hs c => exact .pending (state.trans hs) c
  | armed hs =>
    rw [← due, ← seq]
    exact .armed (state.trans hs)
  | awaiting hs hg =>
    rw [← seq]
    exact .awaiting (state.trans hs) (gate.trans hg)
  | listening hs hg =>
    rw [← seq]
    exact .listening (state.trans hs) (gate.trans hg)
  | staged hs engine =>
    rw [← due] at engine
    exact .staged (state.trans hs) engine
  | firing hs engine =>
    rw [← due] at engine
    exact .firing (state.trans hs) engine

/-- Of a board a seat looks at the engines only. -/
theorem Sits.of_engines {b' : Board} {id : Nat} {o : Option Slot} {p : Seat} (h : b.Sits id o p)
    (same : b'.engines = b.engines) : b'.Sits id o p := by
  cases h with
  | free => exact .free
  | pending hs c => exact .pending hs c
  | armed hs => exact .armed hs
  | awaiting hs hg => exact .awaiting hs hg
  | listening hs hg => exact .listening hs hg
  | staged hs engine =>
    rw [← same] at engine
    exact .staged hs engine
  | firing hs engine =>
    rw [← same] at engine
    exact .firing hs engine

section moves

variable {id : Nat} {x y : Slot} {e : Fin 4} {c : Fin 8} {st : EngineState} {due : Nat}

theorem Placed.change (h : b.Placed) (slot : slotGet b.slots id = some x) (same : x.SamePlace y) :
    (b.put id y).Placed := by
  obtain ⟨p, seat, sits⟩ := h id
  rw [slot] at sits
  refine h.moved ((Apart.refl id b).put y) (seat.put id y) ?_
  rw [put, slotGet_slotPut_self]
  exact (sits.samePlace same).of_engines rfl

theorem sits_free {l : List (Nat × Slot)} : b.Sits id (slotGet (slotDel l id) id) {} := by
  rw [slotGet_slotDel_self]
  exact .free

theorem sits_armed {l : List (Nat × Slot)} (n : Word64) :
    b.Sits id (slotGet (slotPut l id { x with state := .armed, due := due, seq := n }) id)
      { schedule := some { slot := id, time := due, seq := n } } := by
  rw [slotGet_slotPut_self]
  exact .armed rfl

theorem sits_awaiting {l : List (Nat × Slot)} {g : Gate} (gate : x.gate = some g) (n : Word64) :
    b.Sits id (slotGet (slotPut l id { x with state := .awaiting, seq := n }) id)
      { calendar := some { slot := id, time := g.openTime, seq := n } } := by
  rw [slotGet_slotPut_self]
  exact .awaiting rfl gate

theorem Placed.remove (h : b.Placed) {p : Seat} (seat : b.Seats id p) (engine : p.engine = none)
    (context : p.context = none) : (b.free id).Placed := by
  have out := seat.unplace (gone := fun k => k == id) (by simp)
  rw [engine, context] at out
  exact h.moved ((Apart.refl id b).free) ⟨out.schedule, out.calendar, out.line, out.engine, out.context⟩ sits_free

theorem Placed.armSchedule (h : b.Placed) (free : slotGet b.slots id = none) (n : Word64) :
    (b.enterSchedule id x due n).Placed :=
  h.moved ((Apart.refl id b).enterSchedule x due n) ((h.seat_of_free free).enterSchedule rfl x due n) (sits_armed n)

theorem Placed.armCalendar {g : Gate} (h : b.Placed) (free : slotGet b.slots id = none) (gate : x.gate = some g)
    (n : Word64) : (b.enterCalendar id x .awaiting g.openTime n).Placed :=
  h.moved ((Apart.refl id b).enterCalendar x _ _ n) ((h.seat_of_free free).enterCalendar rfl x _ _ n)
    (sits_awaiting gate n)

theorem fetches_only (fetch : b.fetching c = some id) (k : Nat) (held : b.fetching c = some k) : k = id := by
  rw [fetch] at held
  exact (Option.some.inj held).symm

theorem Placed.armFetch (h : b.Placed) (free : slotGet b.slots id = none) (state : x.state = .pending)
    (quiet : b.fetching c = none) : ((b.put id x).setFetch c (some id)).Placed := by
  refine h.moved (((Apart.refl id b).put x).setFetch (fun k hk => ?_) (fun _ hk => (Option.some.inj hk).symm))
    (((h.seat_of_free free).put id x).fetch c nofun) ?_
  · rw [show (b.put id x).fetching c = b.fetching c from rfl, quiet] at hk
    cases hk
  · show Sits _ id (slotGet (slotPut b.slots id x) id) _
    rw [slotGet_slotPut_self]
    exact .pending state c

theorem Placed.fetchFails (h : b.Placed) (fetch : b.fetching c = some id) : ((b.free id).setFetch c none).Placed := by
  have seat := h.seat_of_fetching fetch
  have out := seat.unplace (gone := fun k => k == id) (by simp)
  have freed : (b.free id).Seats id { context := some c } :=
    ⟨out.schedule, out.calendar, out.line, out.engine, out.context⟩
  exact h.moved (((Apart.refl id b).free).setFetch (fetches_only fetch) nofun)
    (freed.fetched c (fun _ hd => (Option.some.inj hd).symm)) sits_free

theorem Placed.fetchSchedule (h : b.Placed) (fetch : b.fetching c = some id) (n : Word64) :
    ((b.enterSchedule id y due n).setFetch c none).Placed :=
  h.moved (((Apart.refl id b).enterSchedule y due n).setFetch (fetches_only fetch) nofun)
    (((h.seat_of_fetching fetch).enterSchedule rfl y due n).fetched c (fun _ hd => (Option.some.inj hd).symm)) (sits_armed n)

theorem Placed.fetchCalendar {g : Gate} (h : b.Placed) (fetch : b.fetching c = some id) (gate : y.gate = some g)
    (n : Word64) : ((b.enterCalendar id y .awaiting g.openTime n).setFetch c none).Placed :=
  h.moved (((Apart.refl id b).enterCalendar y _ _ n).setFetch (fetches_only fetch) nofun)
    (((h.seat_of_fetching fetch).enterCalendar rfl y _ _ n).fetched c (fun _ hd => (Option.some.inj hd).symm))
    (sits_awaiting gate n)

theorem Placed.reenter (h : b.Placed) (slot : slotGet b.slots id = some x) (state : x.state.removable = true) (n : Word64) :
    ((b.unplace (fun k => k == id)).enterSchedule id y due n).Placed := by
  obtain ⟨p, seat, engine, context⟩ := h.seat_of_removable slot state
  have out := seat.unplace (gone := fun k => k == id) (by simp)
  rw [engine, context] at out
  exact h.moved (((Apart.refl id b).unplace).enterSchedule y due n) (out.enterSchedule rfl y due n) (sits_armed n)

theorem Placed.openGate {g : Gate} (h : b.Placed) (slot : slotGet b.slots id = some x) (state : x.state = .awaiting)
    (gate : x.gate = some g) (n : Word64) :
    (((b.unplace (fun k => k == id)).enterCalendar id x .listening g.closeTime n).listenPush g.line id).Placed := by
  have out := (h.seat_of_awaiting slot state gate).unplace (gone := fun k => k == id) (by simp)
  refine h.moved ((((Apart.refl id b).unplace).enterCalendar x _ _ n).listenPush g.line)
    ((out.enterCalendar rfl x _ _ n).listenPush g.line rfl) ?_
  show Sits _ id (slotGet (slotPut b.slots id _) id) _
  rw [slotGet_slotPut_self]
  exact .listening rfl gate

theorem Placed.stage (h : b.Placed) {t : TimedEntry} {rest : List TimedEntry} (head : b.schedule = t :: rest)
    (slot : slotGet b.slots t.slot = some x) (state : x.state = .armed) (idle : (b.engines e).1 = .idle) :
    (({ b with schedule := rest }.put t.slot { x with state := .staged }).setEngine e (.bound, t.slot, t.time)).Placed := by
  obtain ⟨y, found, -, entry⟩ := h.armed_of_schedule (t := t) (by rw [head]; exact List.mem_cons_self)
  rw [slot] at found
  cases found
  have time : t.time = x.due := congrArg TimedEntry.time entry
  obtain ⟨-, dropped⟩ := (h.seat_of_armed slot state).dropHead head rfl
  refine h.moved (((Apart.dropHead head).put _).setEngine (fun k hk => absurd idle hk.1) (fun _ => rfl))
    ((dropped.put t.slot _).hold nofun (by simp) rfl) ?_
  show Sits _ t.slot (slotGet (slotPut b.slots t.slot _) t.slot) _
  rw [slotGet_slotPut_self]
  refine .staged rfl (.inl ?_)
  rw [← time]
  exact Function.update_self ..

theorem Placed.start (h : b.Placed) (engine : b.engines e = (.bound, id, due)) (slot : slotGet b.slots id = some x)
    (v : Word64) : ((b.put id { x with state := .firing, capture := v }).setEngine e (.running, id, due)).Placed := by
  obtain ⟨y, found, seat, hd, -⟩ := h.seat_of_engine engine (by decide)
  rw [slot] at found
  cases found
  refine h.moved (((Apart.refl id b).put _).setEngine (holds_only engine) (fun _ => rfl))
    ((seat.put id _).hold (fun _ hf => (Option.some.inj hf).symm) (by simp) rfl) ?_
  show Sits _ id (slotGet (slotPut b.slots id _) id) _
  rw [slotGet_slotPut_self]
  refine .firing rfl (.inl ?_)
  rw [← hd]
  exact Function.update_self ..

theorem Placed.endFree (h : b.Placed) (engine : b.engines e = (st, id, due)) (busy : st ≠ .idle) :
    ((b.setEngine e Engine.released.hold).free id).Placed := by
  obtain ⟨y, -, seat, -, -⟩ := h.seat_of_engine engine busy
  have released := seat.release (v := Engine.released.hold) (e := e) (fun _ hf => (Option.some.inj hf).symm) rfl
  have out := released.unplace (gone := fun k => k == id) (by simp)
  exact h.moved (((Apart.refl id b).setEngine (holds_only engine) (fun busy => absurd released_idle busy)).free)
    ⟨out.schedule, out.calendar, out.line, out.engine, out.context⟩ sits_free

theorem Placed.endAgain (h : b.Placed) (engine : b.engines e = (st, id, due)) (busy : st ≠ .idle) (next : Nat)
    (n : Word64) : ((b.setEngine e Engine.released.hold).enterSchedule id y next n).Placed := by
  obtain ⟨z, -, seat, -, -⟩ := h.seat_of_engine engine busy
  have released := seat.release (v := Engine.released.hold) (e := e) (fun _ hf => (Option.some.inj hf).symm) rfl
  exact h.moved
    (((Apart.refl id b).setEngine (holds_only engine) (fun busy => absurd released_idle busy)).enterSchedule y next n)
    (released.enterSchedule rfl y next n) (sits_armed n)

theorem Placed.unbind (h : b.Placed) (engine : b.engines e = (.bound, id, due)) (slot : slotGet b.slots id = some x) :
    (((b.put id { x with state := .armed }).setEngine e Engine.released.hold).schedulePut
      { slot := id, time := due, seq := x.seq }).Placed := by
  obtain ⟨y, found, seat, hd, -⟩ := h.seat_of_engine engine (by decide)
  rw [slot] at found
  cases found
  have released := (seat.put id { x with state := .armed }).release (v := Engine.released.hold) (e := e)
    (fun _ hf => (Option.some.inj hf).symm) rfl
  refine h.moved
    ((((Apart.refl id b).put _).setEngine (holds_only engine) (fun busy => absurd released_idle busy)).schedulePut rfl)
    (released.schedulePut rfl rfl) ?_
  show Sits _ id (slotGet (slotPut b.slots id _) id) _
  rw [slotGet_slotPut_self, ← hd]
  exact .armed rfl

theorem Placed.halt (h : b.Placed) (engine : b.engines e = (st, id, due)) (state : st = .bound ∨ st = .running) :
    (b.setEngine e (.halted, id, due)).Placed := by
  have busy : st ≠ .idle := by rcases state with rfl | rfl <;> decide
  obtain ⟨x, slot, seat, hd, how⟩ := h.seat_of_engine engine busy
  have now : (b.setEngine e (.halted, id, due)).engines e = (.halted, id, x.due) := by
    rw [hd]
    exact Function.update_self ..
  refine h.moved ((Apart.refl id b).setEngine (holds_only engine) (fun _ => rfl))
    (seat.hold (fun _ hf => (Option.some.inj hf).symm) (by simp) rfl) ?_
  show Sits _ id (slotGet b.slots id) _
  rw [slot]
  rcases how with ⟨hs, -⟩ | ⟨hs, -⟩
  · exact .staged hs (.inr now)
  · exact .firing hs (.inr now)

end moves

/-! ## The moves of many slots -/

theorem slotGet_filter {l : List (Nat × Slot)} (rising : Rising l) (q : Nat × Slot → Bool) (k : Nat) :
    slotGet (l.filter q) k = (slotGet l k).filter (fun x => q (k, x)) := by
  induction l with
  | nil => rfl
  | cons p rest ih =>
    obtain ⟨n, x⟩ := p
    obtain ⟨above, rising⟩ := List.pairwise_cons.1 rising
    have ih := ih rising
    by_cases hn : n = k
    · subst hn
      have absent : slotGet rest n = none := by
        cases hr : slotGet rest n with
        | none => rfl
        | some y => exact absurd (above _ (slotGet_mem hr)) (Nat.lt_irrefl n)
      rw [absent] at ih
      rw [List.filter_cons]
      split <;> simp_all [slotGet, Option.filter]
    · rw [List.filter_cons]
      split <;> simp_all [slotGet]

theorem slotGet_map (f : Slot → Slot) (l : List (Nat × Slot)) (k : Nat) :
    slotGet (l.map (fun p => (p.1, f p.2))) k = (slotGet l k).map f := by
  induction l with
  | nil => rfl
  | cons p rest ih =>
    simp only [List.map_cons, slotGet, ih]
    split <;> rfl

/-- A slot that the sweep of its ring leaves, with its mark. -/
def swept (r : Fin 16) (x : Slot) : Slot := if x.ring == r && x.marks then { x with endRequested := true } else x

theorem swept_samePlace (r : Fin 16) (x : Slot) : x.SamePlace (swept r x) := by
  unfold swept
  split
  · exact ⟨⟨rfl, rfl, rfl⟩, rfl, rfl, rfl, rfl⟩
  · exact ⟨⟨rfl, rfl, rfl⟩, rfl, rfl, rfl, rfl⟩

theorem slotGet_sweepSlots {l : List (Nat × Slot)} (rising : Rising l) (r : Fin 16) (k : Nat) :
    slotGet (sweepSlots r l) k = ((slotGet l k).filter (fun x => !sweepRemoves r x)).map (swept r) := by
  have marks : sweepSlots r l = (l.filter (fun p => !sweepRemoves r p.2)).map (fun p => (p.1, swept r p.2)) := by
    refine List.map_congr_left (fun p _ => ?_)
    unfold swept
    split <;> rfl
  rw [marks, slotGet_map, slotGet_filter rising]

theorem any_slot_iff {l : List (Nat × Slot)} (rising : Rising l) (q : Slot → Bool) (k : Nat) :
    l.any (fun p => p.1 == k && q p.2) = (slotGet l k).any q := by
  cases hs : slotGet l k with
  | none =>
    refine List.any_eq_false.2 (fun p hp hk => ?_)
    simp only [Bool.and_eq_true, beq_iff_eq] at hk
    obtain ⟨rfl, -⟩ := hk
    rw [slotGet_of_mem (x := p.2) rising hp] at hs
    cases hs
  | some x =>
    refine Bool.eq_iff_iff.2 ⟨fun h => ?_, fun h => ?_⟩
    · obtain ⟨p, hp, hk⟩ := List.any_eq_true.1 h
      simp only [Bool.and_eq_true, beq_iff_eq] at hk
      obtain ⟨rfl, hq⟩ := hk
      rw [slotGet_of_mem (x := p.2) rising hp] at hs
      cases hs
      exact hq
    · exact List.any_eq_true.2 ⟨(k, x), slotGet_mem hs, by simpa using h⟩

/-- The sweep empties the seats of the slots that it removes, and leaves the others. -/
theorem Placed.sweep (h : b.Placed) (rising : Rising b.slots) (r : Fin 16) : (b.sweep r).Placed := by
  intro k
  obtain ⟨p, seat, sits⟩ := h k
  have gone := any_slot_iff rising (sweepRemoves r) k
  have slot : slotGet (b.sweep r).slots k = ((slotGet b.slots k).filter (fun x => !sweepRemoves r x)).map (swept r) :=
    slotGet_sweepSlots rising r k
  by_cases removed : (slotGet b.slots k).any (sweepRemoves r) = true
  · obtain ⟨x, hx, hr⟩ : ∃ x, slotGet b.slots k = some x ∧ sweepRemoves r x = true := by
      cases hx : slotGet b.slots k with
      | none => rw [hx] at removed; cases removed
      | some x => rw [hx] at removed; exact ⟨x, rfl, removed⟩
    have removable : x.state.removable = true := by
      simp only [sweepRemoves, Bool.and_eq_true] at hr
      exact hr.2
    obtain ⟨q, here, engine, context⟩ := h.seat_of_removable hx removable
    have out := here.unplace (gone := fun id => b.slots.any (fun p => p.1 == id && sweepRemoves r p.2))
      (gone.trans removed)
    rw [engine, context] at out
    refine ⟨{}, ⟨out.schedule, out.calendar, out.line, out.engine, out.context⟩, ?_⟩
    rw [slot, hx, Option.filter_some_neg (by simp [hr])]
    exact .free
  · have stay := seat.unplace_of_not (gone := fun id => b.slots.any (fun p => p.1 == id && sweepRemoves r p.2))
      (gone.trans (by simpa using removed))
    refine ⟨p, ⟨stay.schedule, stay.calendar, stay.line, stay.engine, stay.context⟩, ?_⟩
    rw [slot]
    cases hx : slotGet b.slots k with
    | none =>
      rw [hx] at sits
      exact sits.of_engines rfl
    | some x =>
      rw [hx] at sits removed
      rw [Option.filter_some_pos (by simpa using removed)]
      exact (sits.samePlace (swept_samePlace r x)).of_engines rfl

theorem heldRunning_iff (b : Board) (id : Nat) :
    b.heldRunning id = true ↔ ∃ e, (b.engines e).1 = .running ∧ (b.engines e).2.1 = id := by
  have all (e : Fin 4) : e ∈ ([0, 1, 2, 3] : List (Fin 4)) := by revert e; decide
  rw [heldRunning, List.any_eq_true]
  simp only [Bool.and_eq_true, beq_iff_eq]
  exact ⟨fun ⟨e, _, held⟩ => ⟨e, held⟩, fun ⟨e, held⟩ => ⟨e, all e, held⟩⟩

/-- Once every engine is IDLE or waits, only the slots of those that wait are left, each with its engine (R63, R94). -/
theorem Placed.tornDown (h : b.Placed) (rising : Rising b.slots)
    (engines : ∀ e, (b.engines e).1 = .idle ∨ (b.engines e).1 = .running) : b.tornDown.Placed := by
  intro k
  have slot : slotGet b.tornDown.slots k = (slotGet b.slots k).filter (fun _ => b.heldRunning k) :=
    slotGet_filter rising _ k
  by_cases held : b.heldRunning k = true
  · obtain ⟨e, running, hk⟩ := (heldRunning_iff b k).1 held
    have engine : b.engines e = (.running, k, (b.engines e).2.2) := by rw [← running, ← hk]
    obtain ⟨x, hx, seat, hd, how⟩ := h.seat_of_engine engine (by decide)
    refine ⟨{ engine := some e }, ⟨rfl, rfl, fun l => rfl, seat.engine, fun c => ⟨nofun, nofun⟩⟩, ?_⟩
    rw [slot, hx, Option.filter_some_pos (by exact held)]
    rcases how with ⟨-, hb | hb⟩ | ⟨hs, -⟩
    · cases hb
    · cases hb
    · refine .firing hs (.inl ?_)
      rw [hd]
      exact engine
  · refine ⟨{}, ⟨rfl, rfl, fun l => rfl, fun e => ⟨fun hold => ?_, nofun⟩, fun c => ⟨nofun, nofun⟩⟩, ?_⟩
    · rcases engines e with idle | running
      · exact absurd idle hold.1
      · exact absurd ((heldRunning_iff b k).2 ⟨e, running, hold.2⟩) held
    · rw [slot]
      cases slotGet b.slots k with
      | none => exact .free
      | some x =>
        rw [Option.filter_some_neg (by simpa using held)]
        exact .free

theorem placed_reset : State.reset.board.Placed := by
  intro k
  refine ⟨{}, ⟨rfl, rfl, fun l => ?_, fun e => ⟨fun held => ?_, nofun⟩, fun c => ⟨fun fetch => ?_, nofun⟩⟩, .free⟩
  · show List.count k ((Vector.replicate 4 [])[l]) = 0
    simp
  · have idle : (State.reset.board.engines e).1 = .idle := by
      show ((Vector.replicate 4 Engine.released)[e]).hold.1 = .idle
      simp [Engine.hold, Engine.released]
    exact absurd idle held.1
  · have free : State.reset.board.fetching c = none := by
      show ((Vector.replicate 8 ReqContext.free)[c]).fetching? = none
      simp [ReqContext.fetching?]
    rw [free] at fetch
    cases fetch

end Board

/-- Every move leaves each slot in the one place that its state names. -/
theorem BoardMove.placed {b b' : Board} (m : BoardMove b b') (store : b.Store) (h : b.Placed) : b'.Placed := by
  have rising := store.rising
  cases m with
  | armSchedule due n admits => exact h.armSchedule (admits.number rising).1 n
  | armCalendar n admits gate => exact h.armCalendar (admits.number rising).1 gate n
  | armFetch admits state quiet => exact h.armFetch (admits.number rising).1 state quiet
  | fetchFails fetch => exact h.fetchFails fetch
  | fetchSchedule due n fetch => exact h.fetchSchedule fetch n
  | fetchCalendar n fetch _ _ gate => exact h.fetchCalendar fetch gate n
  | remove slot state =>
    obtain ⟨p, seat, engine, context⟩ := h.seat_of_removable (slot rising) state
    exact h.remove seat engine context
  | change slot same => exact h.change (slot rising) same
  | sweep r => exact h.sweep rising r
  | reenter due n slot state => exact h.reenter (slot rising) state n
  | openGate n slot state gate => exact h.openGate slot state gate n
  | dropSchedule head state =>
    obtain ⟨x, slot, armed, -⟩ := h.armed_of_schedule (by rw [head]; exact List.mem_cons_self)
    exact absurd armed (state x slot)
  | dropCalendar head state =>
    obtain ⟨x, g, slot, gate, gated⟩ := h.gated_of_calendar (by rw [head]; exact List.mem_cons_self)
    obtain ⟨notAwaiting, notListening⟩ := state x g slot gate
    rcases gated with awaiting | listening
    · exact absurd awaiting notAwaiting
    · exact absurd listening notListening
  | stage head slot state idle => exact h.stage head slot state idle
  | start v engine slot => exact h.start engine slot v
  | stray engine busy slot =>
    obtain ⟨x, found, -⟩ := h.seat_of_engine engine busy
    rw [slot] at found
    cases found
  | endFree engine busy => exact h.endFree engine busy
  | endAgain next n engine busy => exact h.endAgain engine busy next n
  | unbind engine slot => exact h.unbind engine slot
  | halt engine state => exact h.halt engine state
  | teardown engines => exact h.tornDown rising engines
  | quota n q =>
    intro k
    obtain ⟨p, seat, sits⟩ := h k
    exact ⟨p, ⟨seat.schedule, seat.calendar, seat.line, seat.engine, seat.context⟩, sits.of_engines rfl⟩
  | reset => exact Board.placed_reset

end Sys2Proof.Machine

/-! The law of the places in terms of seats, and its preservation. -/

namespace Sys2Proof.Machine

open Sys2Proof

/-! ## Lists over the numbers of a table -/

theorem toList_eq_map_finRange {α : Type} {n : Nat} (v : Vector α n) :
    v.toList = (List.finRange n).map (fun i => v[i]) := by
  apply List.ext_getElem
  · simp
  · intro i h₁ h₂
    simp

theorem filter_finRange_eq_nil_iff {n : Nat} (q : Fin n → Bool) :
    (List.finRange n).filter q = [] ↔ ∀ i, q i = false := by
  simp [List.filter_eq_nil_iff]

theorem filter_finRange_eq_singleton_iff {n : Nat} (q : Fin n → Bool) (e : Fin n) :
    (List.finRange n).filter q = [e] ↔ ∀ i, q i = true ↔ i = e := by
  refine ⟨fun h i => ?_, fun h => ?_⟩
  · have mem : i ∈ (List.finRange n).filter q ↔ i = e := by rw [h, List.mem_singleton]
    simpa using mem
  · refine List.perm_singleton.1 ((List.perm_ext_iff_of_nodup ((List.nodup_finRange n).filter _) (List.nodup_singleton e)).2 ?_)
    intro i
    rw [List.mem_filter, List.mem_singleton, h i]
    simp

/-! ## The places of a slot -/

section places

variable (s : State) (id : Nat)

theorem holds_iff (e : Fin 4) :
    ((s.engine e).state != .idle && (s.engine e).slot == id) = true ↔ s.board.Holds e id := by
  simp [Board.Holds, Engine.hold]

theorem fetches_iff (c : Fin 8) : (s.ctx c).fetches id = true ↔ s.board.fetching c = some id := by
  rw [board_fetching]
  cases s.ctx c with
  | free => simp [ReqContext.fetches, ReqContext.fetching?]
  | fetch => simp [ReqContext.fetches, ReqContext.fetching?]
  | effect r h e p => cases p <;> simp [ReqContext.fetches, ReqContext.fetching?]

theorem placesOf_engines : (s.placesOf id).engines
    = ((List.finRange 4).filter (fun e => (s.engine e).state != .idle && (s.engine e).slot == id)).map
        (fun e => ((s.engine e).state, (s.engine e).due)) := by
  show ((s.dsp.engines.toList.filter _).map _) = _
  rw [toList_eq_map_finRange, List.filter_map, List.map_map]
  rfl

theorem placesOf_listening : (s.placesOf id).listening = (List.finRange 4).map (fun l => (s.board.listen l).count id) := by
  show s.lnu.listen.toList.map _ = _
  rw [toList_eq_map_finRange, List.map_map]
  rfl

theorem placesOf_contexts :
    (s.placesOf id).contexts = ((List.finRange 8).filter (fun c => (s.ctx c).fetches id)).length := by
  show s.rqe.ctxs.toList.countP _ = _
  rw [toList_eq_map_finRange, List.countP_map, List.countP_eq_length_filter]
  rfl

/-- The places that a seat names. -/
def Seat.places (p : Seat) : Places :=
  { inSchedule := p.schedule.toList
    inCalendar := p.calendar.toList
    listening := (List.finRange 4).map (fun l => if p.line = some l then 1 else 0)
    engines := p.engine.toList.map (fun e => ((s.engine e).state, (s.engine e).due))
    contexts := p.context.toList.length }

variable {s id}

theorem placesOf_of_seats {p : Seat} (h : s.board.Seats id p) : s.placesOf id = p.places s := by
  have places : ∀ q : Places, q.inSchedule = p.schedule.toList → q.inCalendar = p.calendar.toList →
      q.listening = (List.finRange 4).map (fun l => if p.line = some l then 1 else 0) →
      q.engines = p.engine.toList.map (fun e => ((s.engine e).state, (s.engine e).due)) →
      q.contexts = p.context.toList.length → q = p.places s := by
    rintro ⟨⟩ rfl rfl rfl rfl rfl
    rfl
  refine places _ h.schedule h.calendar ?_ ?_ ?_
  · rw [placesOf_listening]
    exact List.map_congr_left (fun l _ => h.line l)
  · rw [placesOf_engines]
    refine congrArg _ ?_
    cases he : p.engine with
    | none =>
      exact (filter_finRange_eq_nil_iff _).2 (fun e => by
        rw [Bool.eq_false_iff, ne_eq, holds_iff, h.engine e, he]
        nofun)
    | some e =>
      exact (filter_finRange_eq_singleton_iff _ e).2 (fun f => by
        rw [holds_iff, h.engine f, he, Option.some_inj, eq_comm])
  · rw [placesOf_contexts]
    refine congrArg _ ?_
    cases hc : p.context with
    | none =>
      exact (filter_finRange_eq_nil_iff _).2 (fun c => by
        rw [Bool.eq_false_iff, ne_eq, fetches_iff, h.context c, hc]
        nofun)
    | some c =>
      exact (filter_finRange_eq_singleton_iff _ c).2 (fun d => by
        rw [fetches_iff, h.context d, hc, Option.some_inj, eq_comm])

theorem not_holds_of_places (h : (s.placesOf id).engines = []) (e : Fin 4) : ¬ s.board.Holds e id := by
  rw [placesOf_engines, List.map_eq_nil_iff, filter_finRange_eq_nil_iff] at h
  rw [← holds_iff, h e]
  nofun

theorem holds_of_places {st : EngineState} {due : Nat} (h : (s.placesOf id).engines = [(st, due)]) :
    ∃ e, (∀ f, s.board.Holds f id ↔ some e = some f) ∧ s.board.engines e = (st, id, due) := by
  rw [placesOf_engines, List.map_eq_singleton_iff] at h
  obtain ⟨e, only, hold⟩ := h
  rw [filter_finRange_eq_singleton_iff] at only
  have held (f : Fin 4) : s.board.Holds f id ↔ some e = some f := by
    rw [← holds_iff, only f, Option.some_inj, eq_comm]
  refine ⟨e, held, ?_⟩
  have slot : (s.engine e).slot = id := ((held e).2 rfl).2
  simp only [Prod.mk.injEq] at hold
  rw [board_engines, Engine.hold, hold.1, hold.2, slot]

theorem not_fetching_of_places (h : (s.placesOf id).contexts = 0) (c : Fin 8) : s.board.fetching c ≠ some id := by
  rw [placesOf_contexts, List.length_eq_zero_iff, filter_finRange_eq_nil_iff] at h
  rw [ne_eq, ← fetches_iff, h c]
  nofun

theorem fetching_of_places (h : (s.placesOf id).contexts = 1) :
    ∃ c, ∀ d, s.board.fetching d = some id ↔ some c = some d := by
  rw [placesOf_contexts, List.length_eq_one_iff] at h
  obtain ⟨c, only⟩ := h
  rw [filter_finRange_eq_singleton_iff] at only
  refine ⟨c, fun d => ?_⟩
  rw [← fetches_iff, only d, Option.some_inj, eq_comm]

/-- The listen counts of a seat without a line, and of one with a line. -/
theorem line_of_places {o : Option (Fin 4)}
    (h : (s.placesOf id).listening = (List.finRange 4).map (fun l => if o = some l then 1 else 0)) (l : Fin 4) :
    (s.board.listen l).count id = if o = some l then 1 else 0 := by
  rw [placesOf_listening] at h
  exact List.map_inj_left.1 h l (List.mem_finRange l)

theorem listenAt_eq (l : Fin 4) :
    listenAt l = (List.finRange 4).map (fun k => if (some l : Option (Fin 4)) = some k then 1 else 0) := by
  revert l
  decide

/-- A slot that the law places has the seat that its state names. -/
theorem sits_of_placedIn {x : Slot} (h : x.placedIn id (s.placesOf id) = true) :
    ∃ p, s.board.Seats id p ∧ s.board.Sits id (some x) p := by
  have quiet : ([0, 0, 0, 0] : List Nat) = (List.finRange 4).map (fun l => if (none : Option (Fin 4)) = some l then 1 else 0) :=
    rfl
  have idle {q : Places} (h : s.placesOf id = q) (hq : q.engines = []) (e : Fin 4) :
      s.board.Holds e id ↔ none = some e :=
    ⟨fun held => absurd held (not_holds_of_places (h ▸ hq) e), nofun⟩
  have unfetched {q : Places} (h : s.placesOf id = q) (hq : q.contexts = 0) (c : Fin 8) :
      s.board.fetching c = some id ↔ none = some c :=
    ⟨fun held => absurd held (not_fetching_of_places (h ▸ hq) c), nofun⟩
  have line {q : Places} {o : Option (Fin 4)} (h : s.placesOf id = q)
      (hq : q.listening = (List.finRange 4).map (fun l => if o = some l then 1 else 0)) (l : Fin 4) :
      (s.board.listen l).count id = if o = some l then 1 else 0 := line_of_places (h ▸ hq) l
  have engine {st : EngineState} (h : s.placesOf id = { Places.none with engines := [(st, x.due)] }) :
      ∃ e, s.board.Seats id { engine := some e } ∧ s.board.engines e = (st, id, x.due) := by
    obtain ⟨e, held, hold⟩ := holds_of_places (congrArg Places.engines h)
    exact ⟨e, ⟨congrArg Places.inSchedule h, congrArg Places.inCalendar h, line h quiet, held, unfetched h rfl⟩, hold⟩
  unfold Slot.placedIn at h
  split at h
  · rename_i state
    have h := beq_iff_eq.1 h
    obtain ⟨c, only⟩ := fetching_of_places (congrArg Places.contexts h)
    refine ⟨_, ?_, .pending state c⟩
    exact ⟨congrArg Places.inSchedule h, congrArg Places.inCalendar h, line h quiet, idle h rfl, only⟩
  · rename_i state
    have h := beq_iff_eq.1 h
    refine ⟨_, ?_, .armed state⟩
    exact ⟨congrArg Places.inSchedule h, congrArg Places.inCalendar h, line h quiet, idle h rfl, unfetched h rfl⟩
  · rename_i state gate
    have h := beq_iff_eq.1 h
    refine ⟨_, ?_, .awaiting state gate⟩
    exact ⟨congrArg Places.inSchedule h, congrArg Places.inCalendar h, line h quiet, idle h rfl, unfetched h rfl⟩
  · rename_i state gate
    have h := beq_iff_eq.1 h
    refine ⟨_, ?_, .listening state gate⟩
    exact ⟨congrArg Places.inSchedule h, congrArg Places.inCalendar h, line h (listenAt_eq _), idle h rfl, unfetched h rfl⟩
  · rename_i state
    rcases Bool.or_eq_true_iff.1 h with h | h
    · obtain ⟨e, seat, hold⟩ := engine (beq_iff_eq.1 h)
      exact ⟨_, seat, .staged state (.inl hold)⟩
    · obtain ⟨e, seat, hold⟩ := engine (beq_iff_eq.1 h)
      exact ⟨_, seat, .staged state (.inr hold)⟩
  · rename_i state
    rcases Bool.or_eq_true_iff.1 h with h | h
    · obtain ⟨e, seat, hold⟩ := engine (beq_iff_eq.1 h)
      exact ⟨_, seat, .firing state (.inl hold)⟩
    · obtain ⟨e, seat, hold⟩ := engine (beq_iff_eq.1 h)
      exact ⟨_, seat, .firing state (.inr hold)⟩
  · cases h
  · cases h

/-- A slot in the seat that its state names is placed as the law says. -/
theorem placedIn_of_sits {x : Slot} {p : Seat} (seat : s.board.Seats id p) (sits : s.board.Sits id (some x) p) :
    x.placedIn id (s.placesOf id) = true := by
  rw [placesOf_of_seats seat]
  have hold {e : Fin 4} {st : EngineState} (h : s.board.engines e = (st, id, x.due)) :
      (s.engine e).state = st ∧ (s.engine e).due = x.due := by
    simp only [board_engines, Engine.hold, Prod.mk.injEq] at h
    exact ⟨h.1, h.2.2⟩
  cases sits with
  | pending state c => simp [Slot.placedIn, state, Seat.places, Places.none]
  | armed state => simp [Slot.placedIn, state, Seat.places, Places.none]
  | awaiting state gate => simp [Slot.placedIn, state, gate, Seat.places, Places.none]
  | listening state gate => simp [Slot.placedIn, state, gate, Seat.places, Places.none, listenAt_eq]
  | staged state engine =>
    rcases engine with engine | engine
    · obtain ⟨hs, hd⟩ := hold engine
      simp [Slot.placedIn, state, Seat.places, Places.none, hs, hd]
    · obtain ⟨hs, hd⟩ := hold engine
      simp [Slot.placedIn, state, Seat.places, Places.none, hs, hd]
  | firing state engine =>
    rcases engine with engine | engine
    · obtain ⟨hs, hd⟩ := hold engine
      simp [Slot.placedIn, state, Seat.places, Places.none, hs, hd]
    · obtain ⟨hs, hd⟩ := hold engine
      simp [Slot.placedIn, state, Seat.places, Places.none, hs, hd]

end places

/-- Every place that holds a number holds that of an occupied slot. -/
theorem noStrays_iff (s : State) : s.noStrays = true ↔ ∀ id, s.slot? id = none → s.board.Seats id {} := by
  constructor
  · intro h id free
    simp only [State.noStrays, Bool.and_eq_true, List.all_eq_true] at h
    obtain ⟨⟨⟨⟨schedule, calendar⟩, listen⟩, engines⟩, contexts⟩ := h
    refine ⟨?_, ?_, fun l => ?_, fun e => ⟨fun held => ?_, nofun⟩, fun c => ⟨fun fetch => ?_, nofun⟩⟩
    · refine List.filter_eq_nil_iff.2 (fun t ht hs => ?_)
      have := schedule t ht
      rw [beq_iff_eq.1 hs, free] at this
      cases this
    · refine List.filter_eq_nil_iff.2 (fun t ht hs => ?_)
      have := calendar t ht
      rw [beq_iff_eq.1 hs, free] at this
      cases this
    · refine List.count_eq_zero.2 (fun hm => ?_)
      have := listen (s.lnu.listen[l]) (by simp) id hm
      rw [free] at this
      cases this
    · obtain ⟨busy, slot⟩ := held
      have := engines (s.engine e) (by simp [State.engine])
      rw [show (s.engine e).slot = id from slot, free] at this
      simp only [Option.isSome_none, Bool.or_false, beq_iff_eq] at this
      exact absurd this busy
    · have := contexts (s.ctx c) (by simp [State.ctx])
      rw [board_fetching] at fetch
      cases hc : s.ctx c with
      | free => rw [hc] at fetch; cases fetch
      | fetch => rw [hc] at fetch; cases fetch
      | effect r h e p =>
        rw [hc] at fetch this
        cases p with
        | waiting => cases fetch
        | identity => cases fetch
        | listFetch n =>
          cases fetch
          simp only [free] at this
          cases this
  · intro h
    have occupied (id : Nat) (used : ¬ s.board.Seats id {}) : (s.slot? id).isSome = true := by
      cases hs : s.slot? id with
      | none => exact absurd (h id hs) used
      | some => rfl
    simp only [State.noStrays, Bool.and_eq_true, List.all_eq_true]
    refine ⟨⟨⟨⟨fun t ht => occupied _ (fun seat => ?_), fun t ht => occupied _ (fun seat => ?_)⟩,
      fun l hl id hid => occupied _ (fun seat => ?_)⟩, fun x hx => ?_⟩, fun x hx => ?_⟩
    · have := List.filter_eq_nil_iff.1 seat.schedule t ht
      simp at this
    · have := List.filter_eq_nil_iff.1 seat.calendar t ht
      simp at this
    · rw [toList_eq_map_finRange, List.mem_map] at hl
      obtain ⟨l, -, rfl⟩ := hl
      exact List.count_eq_zero.1 (seat.line l) hid
    · rw [toList_eq_map_finRange, List.mem_map] at hx
      obtain ⟨e, -, rfl⟩ := hx
      rw [Bool.or_eq_true, beq_iff_eq, or_iff_not_imp_left]
      exact fun busy => occupied _ (fun seat => nomatch (seat.engine e).1 ⟨busy, rfl⟩)
    · rw [toList_eq_map_finRange, List.mem_map] at hx
      obtain ⟨c, -, rfl⟩ := hx
      split
      · rename_i hc
        refine occupied _ (fun seat => nomatch (seat.context c).1 ?_)
        rw [board_fetching, State.ctx, hc]
        rfl
      · rfl

/-- Under rising numbers the law of the places says that every slot has the seat that its state names. -/
theorem placementLaw_iff {s : State} (rising : Rising s.ast.slots) : PlacementLaw s ↔ s.board.Placed := by
  rw [PlacementLaw, noStrays_iff]
  constructor
  · rintro ⟨slots, free⟩ id
    cases hs : s.slot? id with
    | none => exact ⟨{}, free id hs, by rw [board_slots, show slotGet s.ast.slots id = none from hs]; exact .free⟩
    | some x =>
      rw [board_slots, show slotGet s.ast.slots id = some x from hs]
      exact sits_of_placedIn (slots (id, x) (slotGet_mem hs))
  · intro placed
    refine ⟨fun p hp => ?_, fun id free => placed.seat_of_free free⟩
    obtain ⟨q, seat, sits⟩ := placed p.1
    rw [board_slots, slotGet_of_mem (x := p.2) rising hp] at sits
    exact placedIn_of_sits seat sits

/-- Settles O25: every command takes the slots through moves, and each move leaves every slot in one place. -/
theorem placementLawIsKept : Obligations.PlacementLawIsKept := by
  unfold Obligations.PlacementLawIsKept
  intro s t store placement h
  have both := step_keeps (P := fun s => s.board.Store ∧ s.board.Placed) (fun _ _ h => h)
    (fun i s t law h => (Acts.of_exec h).keeps (P := fun b => b.Store ∧ b.Placed)
      (fun _ _ m law => ⟨m.store law.1, m.placed law.1 law.2⟩) law) s t
  have store := (storeLaw_iff s).1 store
  obtain ⟨after, placed⟩ := both ⟨store, (placementLaw_iff store.rising).1 placement⟩ h
  exact (placementLaw_iff after.rising).2 placed

end Sys2Proof.Machine

/-! The accounting of the completion rings over a view of the state, and the changes of that view that keep it (R175, R178
to R183). -/

namespace Sys2Proof.Machine

open Sys2Proof

/-! ## The books -/

/-- What the accounting looks at in a completion ring. -/
structure Account where
  state : CqState
  size : Nat
  produced : Nat
  consumer : Nat
  unreleased : Nat
  owed : Nat
  held : Nat
  lost : Nat

/-- What the accounting looks at in a submission ring. -/
structure Binding where
  state : SqState
  cq : Fin 16
  inFlight : Bool

def CqContext.account (x : CqContext) : Account :=
  { state := x.state, size := x.size, produced := x.produced, consumer := x.consumer, unreleased := x.unreleased,
    owed := x.owed, held := x.outbox.length, lost := x.lost }

def SqContext.binding (x : SqContext) : Binding := { state := x.state, cq := x.cq, inFlight := x.inFlight }

/-- The accounts, the bindings, the ring of the request that each context holds, and the condition of the part. -/
@[ext] structure Books where
  account : Fin 16 → Account
  ring : Fin 16 → Binding
  holder : Fin 8 → Option (Fin 16)
  condition : Condition

namespace Account

/-- Free space less owed (R178). -/
def room (a : Account) : Nat := a.size - a.unreleased - a.owed

/-- What is unreleased and owed fits the ring, and the produced index is the consumer index moved on (R175). -/
structure Fits (a : Account) : Prop where
  lost : a.lost ≤ Config.countLimit
  ring : a.state = .absent ∨ ringSizeOk a.size = true ∧ a.produced < a.size ∧ a.consumer < a.size
    ∧ a.unreleased + a.owed ≤ a.size ∧ a.produced = (a.consumer + a.unreleased) % a.size

/-- An ACTIVE ring holds completions only for want of room, and no other ring holds any (R182). -/
def Drained (a : Account) : Prop := a.held = 0 ∨ a.state = .active ∧ a.room = 0

/-- One more entry is handed over. -/
def written (a : Account) : Account :=
  { a with unreleased := a.unreleased + 1, produced := (a.produced + 1) % a.size, lost := 0 }

/-- Held completions are written while there is room, at most `n` of them. -/
def settle : Nat → Account → Account
  | 0, a => a
  | n + 1, a => if a.held = 0 ∨ a.room = 0 then a else settle n { a.written with held := a.held - 1 }

theorem Fits.absent {a : Account} (state : a.state = .absent) (lost : a.lost ≤ Config.countLimit) : a.Fits :=
  ⟨lost, .inl state⟩

/-- There is room, so that one more entry fits. -/
theorem Fits.written {a : Account} (h : a.Fits) (room : a.unreleased + a.owed < a.size) : a.written.Fits := by
  refine ⟨Nat.zero_le _, ?_⟩
  rcases h.ring with absent | ⟨size, -, consumer, -, produced⟩
  · exact .inl absent
  · refine .inr ⟨size, Nat.mod_lt _ (by omega), consumer, ?_, ?_⟩
    · show a.unreleased + 1 + a.owed ≤ a.size
      omega
    · show (a.produced + 1) % a.size = (a.consumer + (a.unreleased + 1)) % a.size
      rw [produced, Nat.mod_add_mod, Nat.add_assoc]

theorem Fits.held {a : Account} (h : a.Fits) (n : Nat) : ({ a with held := n } : Account).Fits := ⟨h.lost, h.ring⟩

theorem Fits.lose {a : Account} (h : a.Fits) (n : Nat) : ({ a with lost := raise a.lost n } : Account).Fits :=
  ⟨raise_le_limit _ _, h.ring⟩

/-- A reservation is given up. -/
theorem Fits.owed {a : Account} (h : a.Fits) (n : Nat) (le : n ≤ a.owed) : ({ a with owed := n } : Account).Fits := by
  refine ⟨h.lost, h.ring.imp id ?_⟩
  rintro ⟨size, produced, consumer, room, index⟩
  exact ⟨size, produced, consumer, by show a.unreleased + n ≤ a.size; omega, index⟩

theorem settle_owed : ∀ (n : Nat) (a : Account), (settle n a).owed = a.owed
  | 0, _ => rfl
  | n + 1, a => by
    rw [settle]
    split
    · rfl
    · exact settle_owed n _

theorem settle_state : ∀ (n : Nat) (a : Account), (settle n a).state = a.state
  | 0, _ => rfl
  | n + 1, a => by
    rw [settle]
    split
    · rfl
    · exact settle_state n _

theorem settle_held : ∀ (n : Nat) (a : Account), (settle n a).held ≤ a.held
  | 0, _ => Nat.le_refl _
  | n + 1, a => by
    rw [settle]
    split
    · exact Nat.le_refl _
    · exact (settle_held n _).trans (Nat.sub_le _ _)

theorem settle_fits : ∀ (n : Nat) (a : Account), a.Fits → (settle n a).Fits
  | 0, _, h => h
  | n + 1, a, h => by
    rw [settle]
    split
    · exact h
    · rename_i room
      refine settle_fits n _ ((h.written ?_).held _)
      unfold Account.room at room
      omega

/-- After enough writes nothing is held, or there is no more room. -/
theorem settle_drained : ∀ (n : Nat) (a : Account), a.held ≤ n → a.state = .active → (settle n a).Drained
  | 0, a, le, _ => .inl (Nat.le_zero.1 le)
  | n + 1, a, le, active => by
    rw [settle]
    split
    · rename_i done
      exact done.imp id (fun room => ⟨active, room⟩)
    · exact settle_drained n _ (by show a.held - 1 ≤ n; omega) active

end Account

namespace Books

variable {b : Books}

def setAccount (b : Books) (q : Fin 16) (a : Account) : Books := { b with account := Function.update b.account q a }

def setRing (b : Books) (r : Fin 16) (x : Binding) : Books := { b with ring := Function.update b.ring r x }

def setHolder (b : Books) (c : Fin 8) (o : Option (Fin 16)) : Books := { b with holder := Function.update b.holder c o }

def withCondition (b : Books) (k : Condition) : Books := { b with condition := k }

/-- The contexts that hold a request of a ring. -/
def flights (b : Books) (r : Fin 16) : Nat := ∑ c, if b.holder c = some r then 1 else 0

/-- The contexts whose request will complete on a completion ring. -/
def owedTo (b : Books) (q : Fin 16) : Nat := ∑ c, if (b.holder c).map (fun r => (b.ring r).cq) = some q then 1 else 0

/-- The completions in the pool. -/
def pool (b : Books) : Nat := ∑ q, (b.account q).held

/-- No ring exists. -/
def Closed (b : Books) : Prop := ∀ k : Fin 16, (b.ring k).state = .absent ∧ (b.account k).state = .absent

/-- The accounting of the completion rings. -/
structure Sound (b : Books) : Prop where
  fits : ∀ q, (b.account q).Fits
  drained : ∀ q, (b.account q).Drained
  owed : ∀ q, (b.account q).owed = b.owedTo q
  pool : b.pool ≤ Config.poolSize
  flight : ∀ r, b.flights r = if (b.ring r).inFlight then 1 else 0
  bound : ∀ r, (b.ring r).state ≠ .absent → (b.account (b.ring r).cq).state ≠ .absent
  quiet : ∀ r, (b.ring r).state = .absent → (b.ring r).inFlight = false
  closed : b.condition = .off ∨ b.condition = .teardown → b.Closed

/-! ## Sums over a table with one entry replaced -/

theorem sum_update {α : Type} {n : Nat} (v : Fin n → α) (f : α → Nat) (i : Fin n) (x : α) :
    ∑ j, f (Function.update v i x j) + f (v i) = ∑ j, f (v j) + f x := by
  have rest : ∑ j ∈ Finset.univ.erase i, f (Function.update v i x j) = ∑ j ∈ Finset.univ.erase i, f (v j) :=
    Finset.sum_congr rfl (fun j hj => by rw [Function.update_of_ne (Finset.ne_of_mem_erase hj)])
  have new := Finset.add_sum_erase Finset.univ (fun j => f (Function.update v i x j)) (Finset.mem_univ i)
  have old := Finset.add_sum_erase Finset.univ (fun j => f (v j)) (Finset.mem_univ i)
  simp only [Function.update_self] at new
  omega

theorem flights_setHolder (b : Books) (c : Fin 8) (o : Option (Fin 16)) (r : Fin 16) :
    (b.setHolder c o).flights r + (if b.holder c = some r then 1 else 0) = b.flights r + (if o = some r then 1 else 0) :=
  sum_update b.holder (fun o => if o = some r then 1 else 0) c o

theorem owedTo_setHolder (b : Books) (c : Fin 8) (o : Option (Fin 16)) (q : Fin 16) :
    (b.setHolder c o).owedTo q + (if (b.holder c).map (fun r => (b.ring r).cq) = some q then 1 else 0)
      = b.owedTo q + (if o.map (fun r => (b.ring r).cq) = some q then 1 else 0) :=
  sum_update b.holder (fun o => if o.map (fun r => (b.ring r).cq) = some q then 1 else 0) c o

theorem pool_setAccount (b : Books) (q : Fin 16) (a : Account) :
    (b.setAccount q a).pool + (b.account q).held = b.pool + a.held :=
  sum_update b.account Account.held q a

theorem account_setAccount (b : Books) (q k : Fin 16) (a : Account) :
    (b.setAccount q a).account k = if k = q then a else b.account k :=
  Function.update_apply ..

theorem ring_setRing (b : Books) (r k : Fin 16) (x : Binding) :
    (b.setRing r x).ring k = if k = r then x else b.ring k :=
  Function.update_apply ..

/-- The request of a ring is in flight, or is not. -/
def setInFlight (b : Books) (r : Fin 16) (v : Bool) : Books := b.setRing r { b.ring r with inFlight := v }

theorem cq_setInFlight (b : Books) (r k : Fin 16) (v : Bool) : ((b.setInFlight r v).ring k).cq = (b.ring k).cq := by
  rw [setInFlight, ring_setRing]
  split
  · rename_i hk
    rw [hk]
  · rfl

theorem state_setInFlight (b : Books) (r k : Fin 16) (v : Bool) :
    ((b.setInFlight r v).ring k).state = (b.ring k).state := by
  rw [setInFlight, ring_setRing]
  split
  · rename_i hk
    rw [hk]
  · rfl

theorem owedTo_setInFlight (b : Books) (r q : Fin 16) (v : Bool) : (b.setInFlight r v).owedTo q = b.owedTo q := by
  refine Finset.sum_congr rfl (fun c _ => ?_)
  simp only [cq_setInFlight]
  rfl

/-! ## What the law says of a request in flight -/

namespace Sound

variable {c : Fin 8} {r q : Fin 16}

theorem inFlight_of_holder (h : b.Sound) (holder : b.holder c = some r) : (b.ring r).inFlight = true := by
  have flight := h.flight r
  have one : (if b.holder c = some r then 1 else 0) ≤ b.flights r :=
    Finset.single_le_sum (f := fun c => if b.holder c = some r then 1 else 0) (fun _ _ => Nat.zero_le _) (Finset.mem_univ c)
  rw [if_pos holder] at one
  by_contra off
  rw [if_neg off] at flight
  omega

theorem exists_of_holder (h : b.Sound) (holder : b.holder c = some r) : (b.ring r).state ≠ .absent := by
  intro absent
  have := h.inFlight_of_holder holder
  rw [h.quiet r absent] at this
  cases this

theorem owed_pos (h : b.Sound) (holder : b.holder c = some r) : 1 ≤ (b.account (b.ring r).cq).owed := by
  rw [h.owed]
  have one := Finset.single_le_sum
    (f := fun c => if (b.holder c).map (fun k => (b.ring k).cq) = some (b.ring r).cq then 1 else 0)
    (fun _ _ => Nat.zero_le _) (Finset.mem_univ c)
  simpa [holder, owedTo] using one

/-- A completion ring that no ring is bound to owes nothing. -/
theorem owedTo_of_unbound (h : b.Sound) (unbound : ∀ r, (b.ring r).state ≠ .absent → (b.ring r).cq ≠ q) :
    b.owedTo q = 0 := by
  refine Finset.sum_eq_zero (fun c _ => if_neg (fun target => ?_))
  obtain ⟨r, holder, cq⟩ := Option.map_eq_some_iff.1 target
  exact unbound r (h.exists_of_holder holder) cq

/-! ## The changes that keep the law -/

/-- A completion ring changes without a change of what it owes. -/
theorem setAccount (h : b.Sound) {a : Account} (fits : a.Fits) (drained : a.Drained)
    (owed : a.owed = (b.account q).owed) (exist : a.state = .absent ↔ (b.account q).state = .absent)
    (pool : a.held ≤ (b.account q).held ∨ a.held = (b.account q).held + 1 ∧ b.pool < Config.poolSize) :
    (b.setAccount q a).Sound where
  fits k := by
    rw [account_setAccount]
    split
    · exact fits
    · exact h.fits k
  drained k := by
    rw [account_setAccount]
    split
    · exact drained
    · exact h.drained k
  owed k := by
    rw [account_setAccount]
    split
    · rename_i hk
      rw [hk]
      exact owed.trans (h.owed q)
    · exact h.owed k
  pool := by
    have sum := pool_setAccount b q a
    have := h.pool
    omega
  flight := h.flight
  bound r hr := by
    rw [account_setAccount]
    split
    · rename_i hk
      have hk : (b.ring r).cq = q := hk
      rw [ne_eq, exist, ← hk]
      exact h.bound r hr
    · exact h.bound r hr
  quiet := h.quiet
  closed hc k := by
    rw [account_setAccount]
    obtain ⟨ring, account⟩ := h.closed hc k
    refine ⟨ring, ?_⟩
    split
    · rename_i hk
      rw [exist, ← hk]
      exact account
    · exact account

/-- A completion ring to which no ring is bound is made or deleted. -/
theorem replaceAccount (h : b.Sound) {a : Account} (fits : a.Fits) (held : a.held = 0) (owed : a.owed = 0)
    (unbound : ∀ r, (b.ring r).state ≠ .absent → (b.ring r).cq ≠ q)
    (live : a.state = .absent ∨ b.condition ≠ .off ∧ b.condition ≠ .teardown) : (b.setAccount q a).Sound where
  fits k := by
    rw [account_setAccount]
    split
    · exact fits
    · exact h.fits k
  drained k := by
    rw [account_setAccount]
    split
    · exact .inl held
    · exact h.drained k
  owed k := by
    rw [account_setAccount]
    split
    · rename_i hk
      rw [hk]
      exact owed.trans (h.owedTo_of_unbound unbound).symm
    · exact h.owed k
  pool := by
    have sum := pool_setAccount b q a
    have := h.pool
    omega
  flight := h.flight
  bound r hr := by
    have other : (b.setAccount q a).account (b.ring r).cq = b.account (b.ring r).cq :=
      (account_setAccount ..).trans (if_neg (unbound r hr))
    show ((b.setAccount q a).account (b.ring r).cq).state ≠ .absent
    rw [other]
    exact h.bound r hr
  quiet := h.quiet
  closed hc k := by
    rw [account_setAccount]
    obtain ⟨ring, account⟩ := h.closed hc k
    refine ⟨ring, ?_⟩
    split
    · exact live.resolve_right (fun live => hc.elim live.1 live.2)
    · exact account

/-- A submission ring changes, its request in flight apart. -/
theorem setRing (h : b.Sound) {x : Binding} (flight : x.inFlight = (b.ring r).inFlight)
    (cq : x.cq = (b.ring r).cq ∨ (b.ring r).inFlight = false)
    (bound : x.state ≠ .absent → (b.account x.cq).state ≠ .absent) (quiet : x.state = .absent → x.inFlight = false)
    (live : x.state = .absent ∨ (b.ring r).state ≠ .absent ∨ b.condition ≠ .off ∧ b.condition ≠ .teardown) :
    (b.setRing r x).Sound where
  fits := h.fits
  drained := h.drained
  owed q := by
    refine (h.owed q).trans (Finset.sum_congr rfl (fun c _ => ?_))
    have same : (b.holder c).map (fun k => (b.ring k).cq) = (b.holder c).map (fun k => ((b.setRing r x).ring k).cq) := by
      cases hc : b.holder c with
      | none => rfl
      | some k =>
        simp only [Option.map_some, ring_setRing]
        split
        · rename_i hk
          rw [hk] at hc ⊢
          rw [cq.resolve_right (by simp [h.inFlight_of_holder hc])]
        · rfl
    rw [same]
    rfl
  pool := h.pool
  flight k := by
    rw [ring_setRing]
    split
    · rename_i hk
      rw [hk, flight]
      exact h.flight r
    · exact h.flight k
  bound k := by
    rw [ring_setRing]
    split
    · exact bound
    · exact h.bound k
  quiet k := by
    rw [ring_setRing]
    split
    · exact quiet
    · exact h.quiet k
  closed hc k := by
    rw [ring_setRing]
    obtain ⟨ring, account⟩ := h.closed hc k
    refine ⟨?_, account⟩
    split
    · rename_i hk
      rcases live with absent | existed | live
      · exact absent
      · exact absurd (hk ▸ ring) existed
      · exact absurd hc (by simp [show (b.setRing r x).condition = b.condition from rfl, live])
    · exact ring

/-- The request of a ring enters or leaves a context, and the account of its completion ring follows. -/
theorem setFlight (h : b.Sound) {a : Account} {v : Bool} {o : Option (Fin 16)} (existed : (b.ring r).state ≠ .absent)
    (fits : a.Fits) (drained : a.Drained) (exist : a.state = .absent ↔ (b.account (b.ring r).cq).state = .absent)
    (held : a.held ≤ (b.account (b.ring r).cq).held)
    (owed : ∀ k, (b.setHolder c o).owedTo k = if k = (b.ring r).cq then a.owed else b.owedTo k)
    (flight : ∀ k, (b.setHolder c o).flights k = if k = r then (if v then 1 else 0) else b.flights k) :
    (((b.setAccount (b.ring r).cq a).setInFlight r v).setHolder c o).Sound where
  fits k := by
    show ((b.setAccount (b.ring r).cq a).account k).Fits
    rw [account_setAccount]
    split
    · exact fits
    · exact h.fits k
  drained k := by
    show ((b.setAccount (b.ring r).cq a).account k).Drained
    rw [account_setAccount]
    split
    · exact drained
    · exact h.drained k
  owed k := by
    have same : (((b.setAccount (b.ring r).cq a).setInFlight r v).setHolder c o).owedTo k = (b.setHolder c o).owedTo k :=
      owedTo_setInFlight (b.setHolder c o) r k v
    rw [same, owed k]
    show ((b.setAccount (b.ring r).cq a).account k).owed = _
    rw [account_setAccount]
    split
    · rfl
    · exact h.owed k
  pool := by
    have sum := pool_setAccount b (b.ring r).cq a
    have := h.pool
    show (b.setAccount (b.ring r).cq a).pool ≤ _
    omega
  flight k := by
    refine (flight k).trans ?_
    show _ = if ((b.setInFlight r v).ring k).inFlight then 1 else 0
    rw [setInFlight, ring_setRing]
    split
    · rfl
    · exact h.flight k
  bound k hk := by
    have hk : ((b.setInFlight r v).ring k).state ≠ .absent := hk
    rw [state_setInFlight] at hk
    show ((b.setAccount (b.ring r).cq a).account ((b.setInFlight r v).ring k).cq).state ≠ .absent
    rw [cq_setInFlight, account_setAccount]
    split
    · rw [ne_eq, exist]
      exact h.bound r existed
    · exact h.bound k hk
  quiet k hk := by
    have hk : ((b.setInFlight r v).ring k).state = .absent := hk
    rw [state_setInFlight] at hk
    show ((b.setInFlight r v).ring k).inFlight = false
    rw [setInFlight, ring_setRing]
    split
    · rename_i other
      exact absurd (other ▸ hk) existed
    · exact h.quiet k hk
  closed hc := absurd (h.closed hc r).1 existed

/-- A request leaves its context against its reservation. -/
theorem complete (h : b.Sound) {a : Account} (holder : b.holder c = some r) (fits : a.Fits) (drained : a.Drained)
    (owed : a.owed = (b.account (b.ring r).cq).owed - 1)
    (exist : a.state = .absent ↔ (b.account (b.ring r).cq).state = .absent)
    (held : a.held ≤ (b.account (b.ring r).cq).held) :
    (((b.setAccount (b.ring r).cq a).setInFlight r false).setHolder c none).Sound := by
  refine h.setFlight (h.exists_of_holder holder) fits drained exist held (fun k => ?_) (fun k => ?_)
  · have positive := h.owed_pos holder
    have moved := owedTo_setHolder b c none k
    rw [holder, Option.map_some, Option.map_none, if_neg (c := none = some k) nofun] at moved
    rw [h.owed] at owed positive
    split
    · rename_i hk
      rw [hk, if_pos rfl] at moved
      rw [hk]
      omega
    · rename_i hk
      rw [if_neg (fun same => hk (Option.some.inj same).symm)] at moved
      omega
  · have moved := flights_setHolder b c none k
    rw [holder, if_neg (c := none = some k) nofun] at moved
    split
    · rename_i hk
      have flight := h.flight r
      rw [h.inFlight_of_holder holder, if_pos rfl] at flight
      rw [hk, if_pos rfl] at moved
      rw [hk, if_neg (by decide)]
      omega
    · rename_i hk
      rw [if_neg (fun same => hk (Option.some.inj same).symm)] at moved
      omega

/-- A grant: the request of an ACTIVE ring takes a FREE context and a reservation where there is room (R162). -/
theorem grant (h : b.Sound) (free : b.holder c = none) (active : (b.ring r).state = .active)
    (idle : (b.ring r).inFlight = false) (room : 1 ≤ (b.account (b.ring r).cq).room) :
    (((b.setAccount (b.ring r).cq { b.account (b.ring r).cq with owed := (b.account (b.ring r).cq).owed + 1 }).setInFlight r
      true).setHolder c (some r)).Sound := by
  have existed : (b.ring r).state ≠ .absent := by rw [active]; decide
  have exist := h.bound r existed
  refine h.setFlight existed ?_ ?_ .rfl (Nat.le_refl _) (fun k => ?_) (fun k => ?_)
  · have fits := h.fits (b.ring r).cq
    obtain ⟨size, produced, consumer, fit, index⟩ := fits.ring.resolve_left exist
    refine ⟨fits.lost, .inr ⟨size, produced, consumer, ?_, index⟩⟩
    show (b.account (b.ring r).cq).unreleased + ((b.account (b.ring r).cq).owed + 1) ≤ (b.account (b.ring r).cq).size
    unfold Account.room at room
    omega
  · rcases h.drained (b.ring r).cq with empty | ⟨-, full⟩
    · exact .inl empty
    · omega
  · have moved := owedTo_setHolder b c (some r) k
    rw [free, Option.map_some, Option.map_none, if_neg (c := none = some k) nofun] at moved
    split
    · rename_i hk
      rw [hk, if_pos rfl] at moved
      rw [hk]
      show _ = (b.account (b.ring r).cq).owed + 1
      rw [h.owed]
      omega
    · rename_i hk
      rw [if_neg (fun same => hk (Option.some.inj same).symm)] at moved
      omega
  · have moved := flights_setHolder b c (some r) k
    rw [free, if_neg (c := none = some k) nofun] at moved
    split
    · rename_i hk
      have flight := h.flight r
      rw [idle, if_neg (by decide)] at flight
      rw [hk, if_pos rfl] at moved
      rw [hk, if_pos rfl]
      omega
    · rename_i hk
      rw [if_neg (fun same => hk (Option.some.inj same).symm)] at moved
      omega

/-- The part changes its condition. -/
theorem withCondition (h : b.Sound) {k : Condition} (closed : k = .off ∨ k = .teardown → b.Closed) :
    (b.withCondition k).Sound :=
  ⟨h.fits, h.drained, h.owed, h.pool, h.flight, h.bound, h.quiet, closed⟩

/-- Where no ring exists and no context holds a request there is nothing to account for. -/
theorem of_empty (account : ∀ q, b.account q = CqContext.absent.account) (ring : ∀ r, b.ring r = SqContext.absent.binding)
    (holder : ∀ c, b.holder c = none) : b.Sound := by
  refine ⟨fun q => ?_, fun q => ?_, fun q => ?_, ?_, fun r => ?_, fun r hr => ?_, fun r _ => ?_, fun _ k => ?_⟩
  · rw [account]
    exact .absent rfl (Nat.zero_le _)
  · rw [account]
    exact .inl rfl
  · rw [account]
    exact (Finset.sum_eq_zero (fun c _ => by simp [holder])).symm
  · refine (Finset.sum_eq_zero (fun q _ => ?_)).trans_le (Nat.zero_le _)
    rw [account]
    rfl
  · rw [ring]
    exact Finset.sum_eq_zero (fun c _ => by simp [holder])
  · rw [ring] at hr
    exact absurd rfl hr
  · rw [ring]
    rfl
  · rw [ring, account]
    exact ⟨rfl, rfl⟩

end Sound

end Books

end Sys2Proof.Machine

/-! The books of a state, and how the shared operations change them. -/

namespace Sys2Proof.Machine

open Sys2Proof

def State.books (s : State) : Books :=
  { account := fun q => (s.cq q).account
    ring := fun r => (s.sq r).binding
    holder := fun c => (s.ctx c).ring?
    condition := s.hp.condition }

/-! ## The law of the completion rings is that of the books -/

theorem sum_toList {α : Type} {n : Nat} (v : Vector α n) (f : α → Nat) :
    (v.toList.map f).sum = ∑ i : Fin n, f v[i] := by
  rw [toList_eq_map_finRange, List.map_map, Fin.sum_univ_def]
  rfl

theorem countP_eq_sum {α : Type} (l : List α) (p : α → Bool) : l.countP p = (l.map (fun a => if p a then 1 else 0)).sum := by
  induction l with
  | nil => rfl
  | cons a l ih =>
    rw [List.countP_cons, List.map_cons, List.sum_cons, ih, Nat.add_comm]

theorem CqContext.ok_iff (x : CqContext) : x.ok = true ↔ x.account.Fits ∧ x.account.Drained := by
  simp only [CqContext.ok, Bool.and_eq_true, Bool.or_eq_true, beq_iff_eq, decide_eq_true_iff, List.isEmpty_iff, and_assoc]
  constructor
  · rintro ⟨lost, ring, drained⟩
    exact ⟨⟨lost, ring⟩, drained.imp List.length_eq_zero_iff.2 id⟩
  · rintro ⟨⟨lost, ring⟩, drained⟩
    exact ⟨lost, ring, drained.imp List.length_eq_zero_iff.1 id⟩

theorem flights_books (s : State) (r : Fin 16) : s.books.flights r = s.inFlightOf r := by
  rw [State.inFlightOf, countP_eq_sum, sum_toList]
  simp only [beq_iff_eq]
  rfl

theorem owedTo_books (s : State) (q : Fin 16) : s.books.owedTo q = s.owedTo q := by
  rw [State.owedTo, countP_eq_sum, sum_toList]
  refine Finset.sum_congr rfl (fun c _ => ?_)
  show (if (s.ctx c).ring?.map (fun r => (s.sq r).cq) = some q then 1 else 0) = _
  rw [show s.rqe.ctxs[c] = s.ctx c from rfl]
  cases (s.ctx c).ring? <;> simp

theorem pool_books (s : State) : s.books.pool = s.poolUsed := (sum_toList s.cu (fun x => x.outbox.length)).symm

theorem completionLaw_iff (s : State) : CompletionLaw s ↔ s.books.Sound := by
  constructor
  · rintro ⟨rings, pool, flight, bound, quiet, closed⟩
    refine ⟨fun q => (((s.cq q).ok_iff).1 (rings q).1).1, fun q => (((s.cq q).ok_iff).1 (rings q).1).2, fun q => ?_, ?_,
      fun r => ?_, bound, quiet, closed⟩
    · rw [owedTo_books]
      exact (rings q).2
    · rw [pool_books]
      exact pool
    · rw [flights_books]
      exact flight r
  · intro h
    refine ⟨fun q => ⟨((s.cq q).ok_iff).2 ⟨h.fits q, h.drained q⟩, ?_⟩, ?_, fun r => ?_, h.bound, h.quiet, h.closed⟩
    · rw [← owedTo_books]
      exact h.owed q
    · rw [← pool_books]
      exact h.pool
    · rw [← flights_books]
      exact h.flight r

/-! ## The view of an update -/

section view

variable (s : State)

theorem books_setCq (q : Fin 16) (x : CqContext) : (s.setCq q x).books = s.books.setAccount q x.account := by
  ext1 <;> try rfl
  funext k
  by_cases hk : k = q
  · subst hk
    simp [State.books, Books.setAccount]
  · simp [State.books, Books.setAccount, Function.update_of_ne hk, State.cq_setCq_of_ne s x hk]

theorem account_setCq_self (q : Fin 16) (x : CqContext) : (s.setCq q x).books.account q = x.account :=
  congrArg CqContext.account (State.cq_setCq_self s q x)

theorem books_setSq (r : Fin 16) (x : SqContext) : (s.setSq r x).books = s.books.setRing r x.binding := by
  ext1 <;> try rfl
  funext k
  by_cases hk : k = r
  · subst hk
    simp [State.books, Books.setRing]
  · simp [State.books, Books.setRing, Function.update_of_ne hk, State.sq_setSq_of_ne s x hk]

theorem books_setCtx (c : Fin 8) (x : ReqContext) : (s.setCtx c x).books = s.books.setHolder c x.ring? := by
  ext1 <;> try rfl
  funext d
  by_cases hd : d = c
  · subst hd
    simp [State.books, Books.setHolder]
  · simp [State.books, Books.setHolder, Function.update_of_ne hd, State.ctx_setCtx_of_ne s x hd]

theorem Books.setAccount_of_eq {b : Books} {q : Fin 16} {a : Account} (h : b.account q = a) : b.setAccount q a = b := by
  ext1 <;> try rfl
  exact Function.update_eq_self_iff.2 h.symm

theorem Books.setRing_of_eq {b : Books} {r : Fin 16} {x : Binding} (h : b.ring r = x) : b.setRing r x = b := by
  ext1 <;> try rfl
  exact Function.update_eq_self_iff.2 h.symm

theorem Books.setHolder_of_eq {b : Books} {c : Fin 8} {o : Option (Fin 16)} (h : b.holder c = o) : b.setHolder c o = b := by
  ext1 <;> try rfl
  exact Function.update_eq_self_iff.2 h.symm

theorem Books.setAccount_twice (b : Books) (q : Fin 16) (a a' : Account) :
    (b.setAccount q a).setAccount q a' = b.setAccount q a' := by
  ext1 <;> try rfl
  exact Function.update_idem ..

variable {s}

/-- A completion operation changes the books of the rings it changes. -/
theorem CompletionFrame.books {t : State} {q : Fin 16} {x : CqContext} (frame : CompletionFrame s t)
    (cu : t.cu = s.cu.set q x) : t.books = s.books.setAccount q x.account := by
  rw [← books_setCq]
  simp only [State.books, State.sq, State.ctx, State.cq, frame.rqe, cu,
    HostPort.sameBut_condition frame.hp]
  rfl

/-- What leaves the rings, the contexts and the condition alone leaves the books alone. -/
theorem books_of_same {t : State} (cu : t.cu = s.cu) (rqe : t.rqe = s.rqe) (condition : t.hp.condition = s.hp.condition) :
    t.books = s.books := by
  simp only [State.books, State.sq, State.ctx, State.cq, cu, rqe, condition]

variable (s)

theorem CqContext.account_settled (x : CqContext) : x.settled.account = x.account := by
  unfold CqContext.settled
  split <;> rfl

theorem books_notifyIfDue (q : Fin 16) : (s.notifyIfDue q).books = s.books := by
  rw [(frame_notifyIfDue s q).books (s.cu_notifyIfDue q), CqContext.account_settled]
  exact Books.setAccount_of_eq rfl

theorem books_writeEntry (q : Fin 16) (c : Completion) :
    (s.writeEntry q c).books = s.books.setAccount q (s.books.account q).written := by
  rw [(frame_writeEntry s q c).books (s.cu_writeEntry q c), CqContext.account_settled]
  rfl

theorem books_loseCompletion (q : Fin 16) : (s.loseCompletion q).books
    = s.books.setAccount q { s.books.account q with lost := raise (s.books.account q).lost 1 } := books_setCq s q _

theorem books_drainUpTo (q : Fin 16) : ∀ (n : Nat) (s : State),
    (State.drainUpTo q n s).books = s.books.setAccount q (Account.settle n (s.books.account q))
  | 0, s => (Books.setAccount_of_eq rfl).symm
  | n + 1, s => by
    have room : (s.books.account q).room = (s.cq q).room := rfl
    have held : (s.books.account q).held = (s.cq q).outbox.length := rfl
    rw [State.drainUpTo, Account.settle, room, held]
    cases ho : (s.cq q).outbox with
    | nil => exact (Books.setAccount_of_eq rfl).symm
    | cons c rest =>
      dsimp only
      by_cases hr : 1 ≤ (s.cq q).room
      · rw [if_pos hr, if_neg (by simp; omega), books_drainUpTo q n]
        have written : ((s.setCq q { s.cq q with outbox := rest }).writeEntry q c).books
            = s.books.setAccount q { (s.books.account q).written with held := (s.cq q).outbox.length - 1 } := by
          rw [books_writeEntry, account_setCq_self, books_setCq, Books.setAccount_twice, ho]
          rfl
        rw [written, Books.setAccount_twice, ho]
        congr 2
        exact Function.update_self ..
      · rw [if_neg hr, if_pos (by right; omega)]
        exact (Books.setAccount_of_eq rfl).symm

/-- The account of a ring after its outbox has drained. -/
def Account.drain (a : Account) : Account := if a.state = .active then Account.settle a.held a else a

theorem books_drain (q : Fin 16) : (s.drain q).books = s.books.setAccount q (s.books.account q).drain := by
  have state : (s.books.account q).state = (s.cq q).state := rfl
  unfold State.drain Account.drain
  rw [state]
  split
  · exact books_drainUpTo q _ s
  · exact (Books.setAccount_of_eq rfl).symm

/-- The account of a ring after a request completion against its reservation. -/
def Account.answer (a : Account) : Account :=
  match a.state with
  | .absent => { a with owed := a.owed - 1 }
  | .faulted => { a with owed := a.owed - 1, lost := raise a.lost 1 }
  | .active => Account.written { a with owed := a.owed - 1 }

theorem Account.answer_absent {a : Account} (h : a.state = .absent) : a.answer = { a with owed := a.owed - 1 } := by
  unfold Account.answer
  split <;> simp_all

theorem Account.answer_faulted {a : Account} (h : a.state = .faulted) :
    a.answer = { a with owed := a.owed - 1, lost := raise a.lost 1 } := by
  unfold Account.answer
  split <;> simp_all

theorem Account.answer_active {a : Account} (h : a.state = .active) :
    a.answer = Account.written { a with owed := a.owed - 1 } := by
  unfold Account.answer
  split <;> simp_all

theorem books_writeRequestCompletion (q : Fin 16) (c : Completion) :
    (s.writeRequestCompletion q c).books = s.books.setAccount q (s.books.account q).answer := by
  cases hq : (s.cq q).state with
  | absent =>
    have written : s.writeRequestCompletion q c = s.setCq q { s.cq q with owed := (s.cq q).owed - 1 } := by
      unfold State.writeRequestCompletion
      split <;> simp_all
    rw [written, Account.answer_absent hq]
    exact books_setCq s q _
  | faulted =>
    rw [State.writeRequestCompletion_of_faulted c hq, books_loseCompletion, account_setCq_self, books_setCq,
      Books.setAccount_twice, Account.answer_faulted hq]
    rfl
  | active =>
    rw [State.writeRequestCompletion_of_active c hq, books_writeEntry, account_setCq_self, books_setCq,
      Books.setAccount_twice, Account.answer_active hq]
    rfl

theorem books_freeContext (c : Fin 8) (r : Fin 16) :
    (s.freeContext c r).books = (s.books.setInFlight r false).setHolder c none := by
  rw [State.freeContext, books_setSq, books_setCtx]
  rfl

end view

/-! ## What keeps the books -/

/-- From `s` to `t` the accounting stays sound. -/
def Kept (s t : State) : Prop := s.books.Sound → t.books.Sound

theorem Kept.of_eq {s t : State} (h : t.books = s.books) : Kept s t := fun law => h ▸ law

theorem Kept.refl (s : State) : Kept s s := id

theorem Kept.trans {s t u : State} (h : Kept s t) (k : Kept t u) : Kept s u := fun law => k (h law)

section operations

variable (s : State)

theorem State.live_iff : s.live = true ↔ s.hp.condition ≠ .fatal ∧ s.hp.condition ≠ .teardown := by
  simp [State.live]

theorem kept_loseCompletion (q : Fin 16) : Kept s (s.loseCompletion q) := by
  intro law
  rw [books_loseCompletion]
  exact law.setAccount ((law.fits q).lose 1) (law.drained q) rfl .rfl (.inl (Nat.le_refl _))

theorem kept_postCompletion (q : Fin 16) (c : Completion) : Kept s (s.postCompletion q c) := by
  intro law
  have account : s.books.account q = (s.cq q).account := rfl
  unfold State.postCompletion
  split
  · exact law
  · split
    · exact law
    · exact kept_loseCompletion s q law
    · rename_i active
      have active : (s.books.account q).state = .active := active
      split
      · rename_i room
        simp only [Bool.and_eq_true, List.isEmpty_iff, decide_eq_true_iff] at room
        obtain ⟨empty, room⟩ := room
        rw [books_writeEntry]
        have space : (s.books.account q).unreleased + (s.books.account q).owed < (s.books.account q).size := by
          have : 1 ≤ (s.books.account q).room := room
          unfold Account.room at this
          omega
        have held : (s.books.account q).held = 0 := List.length_eq_zero_iff.2 empty
        exact law.setAccount ((law.fits q).written space) (.inl held) rfl .rfl (.inl (Nat.le_refl _))
      · rename_i full
        split
        · rename_i pool
          rw [books_setCq]
          have held : ({ s.cq q with outbox := (s.cq q).outbox ++ [c] } : CqContext).account
              = { s.books.account q with held := (s.books.account q).held + 1 } := by
            rw [CqContext.account, List.length_append]
            rfl
          rw [held]
          refine law.setAccount ((law.fits q).held _) (.inr ⟨active, ?_⟩) rfl .rfl (.inr ⟨rfl, ?_⟩)
          · rcases law.drained q with empty | ⟨-, none⟩
            · simp only [Bool.and_eq_true, List.isEmpty_iff, decide_eq_true_iff, not_and] at full
              have : ¬ 1 ≤ (s.books.account q).room := full (List.length_eq_zero_iff.1 empty)
              exact Nat.lt_one_iff.1 (Nat.lt_of_not_le this)
            · exact none
          · rw [pool_books]
            exact pool
        · exact kept_loseCompletion s q law

theorem kept_postNotice (k : Status) (n a b : Nat) (v : Word64) : Kept s (s.postNotice k n a b v) :=
  kept_postCompletion s 0 _

theorem kept_retireIfDone (r : Fin 16) : Kept s (s.retireIfDone r) := by
  unfold State.retireIfDone
  split
  · rename_i done
    obtain ⟨-, quiet, -⟩ := done
    refine Kept.trans (fun law => ?_) (kept_postNotice _ _ _ _ _ _)
    rw [books_setSq]
    exact law.setRing quiet.symm (.inr quiet) (fun exist => absurd rfl exist) (fun _ => rfl) (.inl rfl)
  · exact .refl s

/-- The account of a ring whose request is answered or given up. -/
theorem Account.answer_keeps {a : Account} (owes : 1 ≤ a.owed) (fits : a.Fits) (drained : a.Drained) :
    a.answer.Fits ∧ a.answer.Drained ∧ a.answer.owed = a.owed - 1 ∧ a.answer.state = a.state ∧ a.answer.held = a.held := by
  have less := fits.owed (a.owed - 1) (Nat.sub_le _ _)
  unfold Account.answer
  split
  · rename_i absent
    exact ⟨less, drained.imp id (fun full => absurd (full.1.symm.trans absent) (by decide)), rfl, rfl, rfl⟩
  · rename_i faulted
    exact ⟨less.lose 1, drained.imp id (fun full => absurd (full.1.symm.trans faulted) (by decide)), rfl, rfl, rfl⟩
  · rename_i active
    have space : a.unreleased + (a.owed - 1) < a.size := by
      obtain ⟨-, -, -, fit, -⟩ := fits.ring.resolve_left (by rw [active]; decide)
      omega
    refine ⟨less.written space, drained.imp id (fun full => ⟨full.1, ?_⟩), rfl, rfl, rfl⟩
    have full : a.size - a.unreleased - a.owed = 0 := full.2
    show a.size - (a.unreleased + 1) - (a.owed - 1) = 0
    omega

/-- A request that holds a context is answered. -/
theorem kept_completeRequest {c : Fin 8} {r : Fin 16} (holder : (s.ctx c).ring? = some r) (x : Result) :
    Kept s (s.completeRequest c r x) := by
  refine Kept.trans (fun law => ?_) (kept_retireIfDone _ r)
  rw [books_freeContext, books_writeRequestCompletion]
  obtain ⟨fits, drained, owed, state, held⟩ := Account.answer_keeps (law.owed_pos (c := c) holder) (law.fits _) (law.drained _)
  exact law.complete holder fits drained owed (iff_of_eq (congrArg (· = CqState.absent) state))
    held.le

theorem Account.drain_keeps {a : Account} : a.drain.owed = a.owed ∧ a.drain.state = a.state ∧ a.drain.held ≤ a.held
    ∧ (a.Fits → a.drain.Fits) ∧ ((a.state ≠ .active → a.held = 0) → a.drain.Drained) := by
  unfold Account.drain
  split
  · rename_i active
    exact ⟨Account.settle_owed _ a, Account.settle_state _ a, Account.settle_held _ a, Account.settle_fits _ a,
      fun _ => Account.settle_drained _ a (Nat.le_refl _) active⟩
  · rename_i inactive
    exact ⟨rfl, rfl, Nat.le_refl _, id, fun empty => .inl (empty inactive)⟩

end operations

end Sys2Proof.Machine

/-! Every command keeps the accounting of the completion rings. -/

namespace Sys2Proof.Machine

open Sys2Proof

/-- A change of neither the rings nor the contexts nor the condition. -/
theorem Kept.same {s t : State} (cu : t.cu = s.cu) (rqe : t.rqe = s.rqe) (condition : t.hp.condition = s.hp.condition) :
    Kept s t := .of_eq (books_of_same cu rqe condition)

/-! ## What the dispatcher and the operation path do -/

theorem kept_stageHead (s : State) : Kept s s.stageHead := by
  rcases s.stageHead_cases with ⟨hk, -⟩ | ⟨h, rest, e, -, -, -, -, -, -, ⟨-, hk⟩ | ⟨x, -, -, hk⟩⟩
  · rw [hk]
    exact .refl s
  · rw [hk]
    exact .same rfl rfl rfl
  · rw [hk]
    exact .same rfl rfl rfl

theorem kept_stageUpTo : ∀ (n : Nat) (s : State), Kept s (State.stageUpTo n s)
  | 0, s => .refl s
  | n + 1, s => (kept_stageHead s).trans (kept_stageUpTo n _)

theorem kept_stageAll (s : State) : Kept s s.stageAll := kept_stageUpTo _ s

theorem kept_endSlot (s : State) (id : Nat) (r : Fin 16) : Kept s (s.endSlot id r) :=
  Kept.trans (t := s.freeSlot id) (.same rfl rfl rfl) (kept_retireIfDone _ r)

theorem kept_endInstance (s : State) (e : Fin 4) (st : Status) (i : Nat) : Kept s (s.endInstance e st i) := by
  unfold State.endInstance
  split
  · exact .same rfl rfl rfl
  · rename_i x _
    dsimp only
    refine Kept.trans ?_ (kept_stageHead _)
    generalize endReport x (s.engine e).due (s.engine e).late st s.now = r
    have reported : Kept s ((if r.posted then
        s.postCompletion (s.sq x.ring).cq (fireCompletion x (s.engine e) st i r) else s).setEngine e Engine.released) := by
      split
      · exact (kept_postCompletion s _ _).trans (.same rfl rfl rfl)
      · exact .same rfl rfl rfl
    split
    · exact reported.trans (kept_endSlot _ _ _)
    · exact reported.trans (.same rfl rfl rfl)

theorem kept_afterStop (s : State) (e : Fin 4) (k : Stop) : Kept s (s.afterStop e k) := by
  cases k with
  | budget => exact kept_endInstance s e _ _
  | teardown => exact .same rfl rfl rfl
  | fatal => exact .same rfl rfl rfl

theorem kept_stopRunning (s : State) (e : Fin 4) (k : Stop) : Kept s (s.stopRunning e k) := by
  unfold State.stopRunning
  split
  · exact .same rfl rfl rfl
  · exact .same rfl rfl rfl
  · exact Kept.trans (t := s.dropOpWrite e) (.same rfl rfl rfl) (kept_afterStop _ e k)
  all_goals exact kept_afterStop s e k

theorem kept_fatalEngine (s : State) (e : Fin 4) : Kept s (s.fatalEngine e) := by
  unfold State.fatalEngine
  split
  · exact .refl s
  · exact .refl s
  · exact .same rfl rfl rfl
  · exact kept_stopRunning s e _

theorem books_issueOpWrite (s : State) (e : Fin 4) (a : Addr) (w : Width) (d : Word64) :
    (s.issueOpWrite e a w d).books = s.books := by
  unfold State.issueOpWrite
  split <;> rfl

theorem books_placeIfMaster (s : State) (t : BusTxn) : (s.placeIfMaster t).books = s.books := by
  unfold State.placeIfMaster
  split <;> rfl

theorem kept_issueRead (s : State) (e : Fin 4) (i : Nat) (a : Addr) (w : Width) : Kept s (s.issueRead e i a w) :=
  .of_eq (books_placeIfMaster _ _)

theorem kept_runOps (e : Fin 4) (tenant : Nat) : ∀ (ops : List Op) (i : Nat) (s : State),
    Kept s (State.runOps e tenant i ops s)
  | [], i, s => kept_endInstance s e _ _
  | op :: rest, i, s => by
    cases op with
    | write w a d =>
      simp only [State.runOps]
      split
      · split
        · exact (Kept.of_eq (books_issueOpWrite s e a w d)).trans (kept_runOps e tenant rest _ _)
        · exact kept_endInstance s e _ _
      · exact .same rfl rfl rfl
    | stamp a =>
      simp only [State.runOps]
      split
      · split
        · exact (Kept.of_eq (books_issueOpWrite s e a _ _)).trans (kept_runOps e tenant rest _ _)
        · exact kept_endInstance s e _ _
      · exact .same rfl rfl rfl
    | read w a =>
      simp only [State.runOps]
      split
      · exact kept_issueRead s e i a w
      · exact kept_endInstance s e _ _
    | maskedWrite w a d m =>
      simp only [State.runOps]
      split
      · exact kept_issueRead s e i a w
      · exact kept_endInstance s e _ _
    | poll w a d m l =>
      simp only [State.runOps]
      split
      · exact kept_issueRead s e i a w
      · exact kept_endInstance s e _ _
    | line l v => exact .same rfl rfl rfl
    | wait n => exact .same rfl rfl rfl

theorem kept_continueAfter (s : State) (e : Fin 4) (x : Slot) (i : Nat) : Kept s (s.continueAfter e x i) :=
  kept_runOps e _ _ _ s

theorem kept_setCapture (s : State) (id : Nat) (v : Word64) : Kept s (s.setCapture id v) := by
  unfold State.setCapture
  split
  · exact .same rfl rfl rfl
  · exact .refl s

theorem kept_stoppedReturn (s : State) (e : Fin 4) (k : Stop) (v : Word64) : Kept s (s.stoppedReturn e k v) := by
  cases k with
  | budget => exact (kept_setCapture s _ v).trans (kept_afterStop _ e _)
  | teardown => exact kept_afterStop s e _
  | fatal => exact (kept_setCapture s _ v).trans (kept_afterStop _ e _)

theorem kept_failRead (s : State) (e : Fin 4) : Kept s (s.failRead e) := by
  unfold State.failRead
  split
  · exact kept_afterStop s e _
  · exact kept_endInstance s e _ _

theorem kept_startInstance (s : State) (e : Fin 4) (x : Slot) : Kept s (s.startInstance e x) := by
  have started (late : Bool) : Kept s ((s.setSlot (s.engine e).slot { x with state := .firing, capture := 0 }).setEngine e
      ((s.engine e).startedAt s.now (1000000 * s.dsp.budget) late)) := .same rfl rfl rfl
  unfold State.startInstance
  dsimp only
  split
  · split
    · exact (started _).trans (kept_runOps e _ _ _ _)
    · exact (started _).trans (kept_endInstance _ e _ _)
    · exact (started _).trans (kept_endInstance _ e _ _)
  · exact (started _).trans (kept_runOps e _ _ _ _)

theorem kept_unbind (s : State) (e : Fin 4) : Kept s (s.unbind e) := by
  unfold State.unbind
  split
  · split
    · exact .same rfl rfl rfl
    · exact .same rfl rfl rfl
  · exact .refl s

theorem kept_dspReact (s : State) : Kept s s.dspReact :=
  ((((kept_unbind s 0).trans (kept_unbind _ 1)).trans (kept_unbind _ 2)).trans (kept_unbind _ 3)).trans (kept_stageAll _)

theorem kept_maskedWriteBack (s : State) (e : Fin 4) (x : Slot) (w : Width) (a : Addr) (o d m : Word64) :
    Kept s (s.maskedWriteBack e x w a o d m) := by
  unfold State.maskedWriteBack
  split
  · split
    · exact (Kept.of_eq (books_issueOpWrite s e a w _)).trans (kept_continueAfter _ e x _)
    · exact kept_endInstance s e _ _
  · exact .same rfl rfl rfl

/-! ## What the line unit does -/

theorem kept_closeGate (s : State) (id : Nat) (x : Slot) (g : Gate) : Kept s (s.closeGate id x g) := by
  unfold State.closeGate
  split
  · exact (kept_postCompletion s _ _).trans (kept_endSlot _ _ _)
  · exact .same rfl rfl rfl

theorem kept_processHead (s : State) : Kept s s.processHead := by
  unfold State.processHead
  split
  · exact .refl s
  · split
    · exact .same rfl rfl rfl
    · exact kept_closeGate s _ _ _
    · exact .same rfl rfl rfl
  · exact .same rfl rfl rfl

theorem kept_sweepUpTo : ∀ (n : Nat) (s : State), Kept s (State.sweepUpTo n s)
  | 0, s => .refl s
  | n + 1, s => by
    unfold State.sweepUpTo
    split
    · exact (kept_processHead s).trans (kept_sweepUpTo n _)
    · exact .refl s

theorem kept_releaseListener (stamp : Nat) (s : State) (id : Nat) : Kept s (State.releaseListener stamp s id) := by
  unfold State.releaseListener
  split
  · exact .same rfl rfl rfl
  · exact .refl s

theorem kept_releaseAll (s : State) (l : Fin 4) (k : EdgeKind) (stamp : Nat) : Kept s (s.releaseAll l k stamp) := by
  unfold State.releaseAll
  generalize s.qualifying l k stamp = ids
  induction ids generalizing s with
  | nil => exact .refl s
  | cons a rest ih => exact (kept_releaseListener stamp s a).trans (ih _)

theorem kept_reportEdge (s : State) (l : Fin 4) (k : EdgeKind) (stamp n : Nat) :
    Kept s (s.reportEdge l k stamp n) := by
  unfold State.reportEdge
  split
  · split
    · exact (kept_postCompletion s _ _).trans (.same rfl rfl rfl)
    · exact .refl s
  · exact .refl s

/-! ## Requests that are answered -/

/-- The ring of a request that waits to take effect, and the progress of its context. -/
theorem State.holder_of_requestOf {s : State} {c : Fin 8} {k : ReqKind} {r : Fin 16} {e : Entry}
    (h : s.requestOf c k = some (r, e)) : (s.ctx c).ring? = some r := by
  obtain ⟨-, request, -⟩ := (s.requestOf_eq_some_iff c k r e).1 h
  cases hc : s.ctx c with
  | free => rw [hc] at request; cases request
  | fetch => rw [hc] at request; cases request
  | effect r' h' e' p' =>
    rw [hc] at request
    cases request
    rfl

/-- A request is answered in a state that has the same contexts. -/
theorem Kept.answerAfter {s u : State} {c : Fin 8} {k : ReqKind} {r : Fin 16} {e : Entry} (kept : Kept s u)
    (same : u.rqe.ctxs = s.rqe.ctxs) (h : s.requestOf c k = some (r, e)) (x : Result) :
    Kept s (u.completeRequest c r x) := by
  refine kept.trans (kept_completeRequest u ?_ x)
  rw [State.ctx, same]
  exact State.holder_of_requestOf h

theorem Kept.answer {s : State} {c : Fin 8} {k : ReqKind} {r : Fin 16} {e : Entry} (h : s.requestOf c k = some (r, e))
    (x : Result) : Kept s (s.completeRequest c r x) := (Kept.refl s).answerAfter rfl h x

/-- A change outside the books, and the answer to a request. -/
theorem Kept.quietAnswer {s u : State} {c : Fin 8} {k : ReqKind} {r : Fin 16} {e : Entry} (cu : u.cu = s.cu)
    (rqe : u.rqe = s.rqe) (condition : u.hp.condition = s.hp.condition) (h : s.requestOf c k = some (r, e)) (x : Result) :
    Kept s (u.completeRequest c r x) := (Kept.same cu rqe condition).answerAfter (by rw [rqe]) h x

section requests

variable (c : Fin 8) (s : State)

theorem kept_setTime : ∃ t, execSetTime c s = .next t ∧ Kept s t := by
  refine ⟨_, rfl, ?_⟩
  split
  · rename_i hr
    dsimp only
    split
    · exact Kept.quietAnswer (by exact rfl) (by exact rfl) (by exact rfl) hr _
    · exact .answer hr _
  · exact .refl s

theorem kept_stepTime : ∃ t, execStepTime c s = .next t ∧ Kept s t := by
  refine ⟨_, rfl, ?_⟩
  split
  · rename_i hr
    split
    · exact .answer hr _
    · dsimp only
      split
      · exact Kept.quietAnswer (by exact rfl) (by exact rfl) (by exact rfl) hr _
      · exact Kept.quietAnswer (by exact rfl) (by exact rfl) (by exact rfl) hr _
  · exact .refl s

theorem kept_slewTime : ∃ t, execSlewTime c s = .next t ∧ Kept s t := by
  refine ⟨_, rfl, ?_⟩
  split
  · rename_i hr
    split
    · exact .answer hr _
    · split
      · exact .answer hr _
      · exact Kept.quietAnswer (by exact rfl) (by exact rfl) (by exact rfl) hr _
  · exact .refl s

theorem kept_readTimeState : ∃ t, execReadTimeState c s = .next t ∧ Kept s t := by
  refine ⟨_, rfl, ?_⟩
  split
  · exact .answer ‹_› _
  · exact .refl s

theorem placeAction_same (id : Nat) (x : Slot) :
    (s.placeAction id x).cu = s.cu ∧ (s.placeAction id x).rqe = s.rqe ∧ (s.placeAction id x).hp = s.hp := by
  unfold State.placeAction
  split <;> exact ⟨rfl, rfl, rfl⟩

/-- A context in EFFECT keeps its ring while its request comes further. -/
theorem books_setProgress (p : Effect) : (s.setProgress c p).books = s.books := by
  rw [State.setProgress, books_setCtx]
  refine Books.setHolder_of_eq ?_
  show (s.ctx c).ring? = _
  cases s.ctx c <;> rfl

theorem kept_arm : ∃ t, execArm c s = .next t ∧ Kept s t := by
  refine ⟨_, rfl, ?_⟩
  split
  · rename_i hr
    split
    · exact .answer hr _
    · dsimp only
      split
      · exact .of_eq ((books_placeIfMaster _ _).trans (books_setProgress c (s.setSlot _ _) _))
      · obtain ⟨cu, rqe, hp⟩ := placeAction_same s (lowestFree 0 s.ast.slots) ‹_›
        exact Kept.quietAnswer cu rqe (congrArg _ hp) hr _
  · exact .refl s

theorem State.holder_of_fetchOf {s : State} {c : Fin 8} {r : Fin 16} {q : Entry × Nat × Nat × Nat × Bool × Slot}
    (h : s.fetchOf c = some (r, q)) : (s.ctx c).ring? = some r := by
  unfold State.fetchOf at h
  split at h
  · split at h
    · rename_i hc
      split at h
      · cases h
        rw [hc]
        rfl
      · cases h
    · cases h
  · cases h

theorem kept_refuseFetched {r : Fin 16} (holder : (s.ctx c).ring? = some r) (id : Nat) (x : Result) :
    Kept s (s.refuseFetched c r id x) :=
  Kept.trans (t := s.freeSlot id) (.same rfl rfl rfl) (kept_completeRequest (s.freeSlot id) holder x)

theorem kept_listFetchDone (x : ListResult) : ∃ t, execListFetchDone c x s = .next t ∧ Kept s t := by
  refine ⟨_, rfl, ?_⟩
  split
  · rename_i id sample _ _ y hf
    have holder := State.holder_of_fetchOf hf
    split
    · exact kept_refuseFetched c s holder _ _
    · split
      · unfold State.listArrived
        dsimp only
        split
        · exact kept_refuseFetched c s holder _ _
        · split
          · exact kept_refuseFetched c s holder _ _
          · rename_i ops _
            obtain ⟨cu, rqe, hp⟩ := placeAction_same s id { y with ops := ops }
            refine (Kept.same cu rqe (congrArg _ hp)).trans (kept_completeRequest _ ?_ _)
            rw [State.ctx, rqe]
            exact holder
      · exact .refl s
  · exact .refl s

theorem kept_listFetchTimeout : ∃ t, execListFetchTimeout c s = .next t ∧ Kept s t := by
  refine ⟨_, rfl, ?_⟩
  split
  · rename_i hf
    have holder := State.holder_of_fetchOf hf
    split
    · exact Kept.trans (t := s.noteStale (.list c)) (.same rfl rfl rfl)
        (kept_refuseFetched c (s.noteStale (.list c)) holder _ _)
    · exact .refl s
  · exact .refl s

theorem cancelSlot_same (id : Nat) (x : Slot) : (s.cancelSlot id x).2.2.cu = s.cu
    ∧ (s.cancelSlot id x).2.2.rqe = s.rqe ∧ (s.cancelSlot id x).2.2.hp = s.hp := by
  unfold State.cancelSlot
  split
  · exact ⟨rfl, rfl, rfl⟩
  · split <;> exact ⟨rfl, rfl, rfl⟩

theorem kept_cancel : ∃ t, execCancel c s = .next t ∧ Kept s t := by
  refine ⟨_, rfl, ?_⟩
  split
  · rename_i hr
    split
    · exact .answer hr _
    · rename_i id x _
      obtain ⟨cu, rqe, hp⟩ := cancelSlot_same s id x
      exact Kept.quietAnswer cu rqe (congrArg _ hp) hr _
  · exact .refl s

theorem kept_cancelAll : ∃ t, execCancelAll c s = .next t ∧ Kept s t := by
  refine ⟨_, rfl, ?_⟩
  split
  · rename_i r _ hr
    exact Kept.quietAnswer (u := s.sweepRing r) rfl rfl rfl hr _
  · exact .refl s

theorem kept_amend : ∃ t, execAmend c s = .next t ∧ Kept s t := by
  refine ⟨_, rfl, ?_⟩
  split
  · rename_i hr
    split
    · exact .answer hr _
    · exact Kept.quietAnswer (u := s.reenter _ _ _) rfl rfl rfl hr _
  · exact .refl s

theorem kept_query : ∃ t, execQuery c s = .next t ∧ Kept s t := by
  refine ⟨_, rfl, ?_⟩
  split
  · exact .answer ‹_› _
  · exact .refl s

theorem kept_setTenantLimits : ∃ t, execSetTenantLimits c s = .next t ∧ Kept s t := by
  refine ⟨_, rfl, ?_⟩
  split
  · rename_i hr
    dsimp only
    split
    · exact .answer hr _
    · split
      · exact .answer hr _
      · split
        · exact .answer hr _
        · split
          · exact .answer hr _
          · exact Kept.quietAnswer (by exact rfl) (by exact rfl) (by exact rfl) hr _
  · exact .refl s

theorem kept_holdDispatch : ∃ t, execHoldDispatch c s = .next t ∧ Kept s t := by
  refine ⟨_, rfl, ?_⟩
  split
  · rename_i hr
    exact Kept.quietAnswer (by exact rfl) (by exact rfl) (by exact rfl) hr _
  · exact .refl s

theorem kept_resumeDispatch : ∃ t, execResumeDispatch c s = .next t ∧ Kept s t := by
  refine ⟨_, rfl, ?_⟩
  split
  · rename_i hr
    dsimp only
    split
    · exact Kept.trans (by exact Kept.quietAnswer (by exact rfl) (by exact rfl) (by exact rfl) hr _) (kept_stageAll _)
    · exact Kept.quietAnswer (by exact rfl) (by exact rfl) (by exact rfl) hr _
  · exact .refl s

theorem kept_setDispatch : ∃ t, execSetDispatch c s = .next t ∧ Kept s t := by
  refine ⟨_, rfl, ?_⟩
  split
  · rename_i hr
    dsimp only
    split
    · exact Kept.trans (by exact Kept.quietAnswer (by exact rfl) (by exact rfl) (by exact rfl) hr _) (kept_stageAll _)
    · exact .answer hr _
  · exact .refl s

theorem kept_configureInputLine : ∃ t, execConfigureInputLine c s = .next t ∧ Kept s t := by
  refine ⟨_, rfl, ?_⟩
  split
  · rename_i hr
    split
    · exact .answer hr _
    · split
      · exact .answer hr _
      · split
        · exact Kept.quietAnswer (u := s.setInput _ _) rfl rfl rfl hr _
        · split
          · exact .answer hr _
          · split
            · exact Kept.quietAnswer (u := s.setInput _ _) rfl rfl rfl hr _
            · exact .answer hr _
  · exact .refl s

theorem kept_grantLine : ∃ t, execGrantLine c s = .next t ∧ Kept s t := by
  refine ⟨_, rfl, ?_⟩
  split
  · rename_i hr
    split
    · exact .answer hr _
    · dsimp only
      split
      · exact .answer hr _
      · split
        · exact .answer hr _
        · split
          · exact .answer hr _
          · exact Kept.quietAnswer (u := s.setOutput _ _) rfl rfl rfl hr _
  · exact .refl s

theorem kept_revokeLine : ∃ t, execRevokeLine c s = .next t ∧ Kept s t := by
  refine ⟨_, rfl, ?_⟩
  split
  · rename_i hr
    split
    · exact .answer hr _
    · exact Kept.quietAnswer (u := s.setOutput _ _) rfl rfl rfl hr _
  · exact .refl s

theorem kept_setWindow : ∃ t, execSetWindow c s = .next t ∧ Kept s t := by
  refine ⟨_, rfl, ?_⟩
  split
  · rename_i hr
    split
    · exact .answer hr _
    · split
      · exact .answer hr _
      · exact Kept.quietAnswer (by exact rfl) (by exact rfl) (by exact rfl) hr _
  · exact .refl s

theorem kept_clearWindow : ∃ t, execClearWindow c s = .next t ∧ Kept s t := by
  refine ⟨_, rfl, ?_⟩
  split
  · rename_i hr
    split
    · exact .answer hr _
    · exact Kept.quietAnswer (by exact rfl) (by exact rfl) (by exact rfl) hr _
  · exact .refl s

theorem kept_identify : ∃ t, execIdentify c s = .next t ∧ Kept s t := by
  refine ⟨_, rfl, ?_⟩
  split
  · rename_i hr
    split
    · exact .answer hr _
    · exact .of_eq (books_setProgress c s _)
  · exact .refl s

theorem State.holder_of_identityOf {s : State} {c : Fin 8} {r : Fin 16} {q : Entry × Nat} (h : s.identityOf c = some (r, q)) :
    (s.ctx c).ring? = some r := by
  unfold State.identityOf at h
  split at h
  · split at h
    · rename_i hc
      cases h
      rw [hc]
      rfl
    · cases h
  · cases h

theorem kept_identifyRecordIssued (n : Fin 64) : ∃ t, execIdentifyRecordIssued c n s = .next t ∧ Kept s t := by
  refine ⟨_, rfl, ?_⟩
  split
  · rename_i r _ _ d a refused rest hi _
    have holder := State.holder_of_identityOf hi
    have placed (m : Nat) : Kept s (State.placePrefix { s with hp := { s.hp with posted := rest } } c a m)
        ∧ ((State.placePrefix { s with hp := { s.hp with posted := rest } } c a m).ctx c).ring? = some r := by
      unfold State.placePrefix
      split <;> exact ⟨.same rfl rfl rfl, holder⟩
    split
    · dsimp only
      split
      · obtain ⟨kept, holder⟩ := placed (if refused then 0 else n.val)
        exact kept.trans (kept_completeRequest _ holder _)
      · have placed : Kept s (State.place { s with hp := { s.hp with posted := rest } } (.identity c a 64 identityRecord)) :=
          .same rfl rfl rfl
        refine placed.trans (kept_completeRequest _ ?_ _)
        exact holder
    · exact .refl s
  · exact .refl s

end requests

end Sys2Proof.Machine

namespace Sys2Proof.Machine

open Sys2Proof

/-! ## Engines, lines and time -/

section engines

variable (e : Fin 4) (s : State)

theorem kept_instanceStart : ∃ t, execInstanceStart e s = .next t ∧ Kept s t := by
  refine ⟨_, rfl, ?_⟩
  split
  · split
    · exact kept_startInstance s e _
    · exact .refl s
  · exact .refl s

theorem kept_budgetExpired : ∃ t, execBudgetExpired e s = .next t ∧ Kept s t := by
  refine ⟨_, rfl, ?_⟩
  split
  · exact kept_stopRunning s e _
  · exact .refl s

theorem kept_dspStepEvent : ∃ t, execDspStepEvent s = .next t ∧ Kept s t := by
  refine ⟨_, rfl, ?_⟩
  split
  · exact .refl s
  · rename_i rest _
    have taken : Kept s { s with dsp := { s.dsp with steps := rest } } := .same rfl rfl rfl
    dsimp only
    split
    · exact taken.trans (kept_dspReact _)
    · exact taken

theorem kept_readDataReturned (d : Word64) : ∃ t, execReadDataReturned e d s = .next t ∧ Kept s t := by
  refine ⟨_, rfl, ?_⟩
  split
  · split
    · split
      · exact kept_stoppedReturn s e _ _
      · exact (kept_setCapture s _ _).trans (kept_continueAfter _ e _ _)
    · exact .refl s
  · exact .refl s

theorem kept_maskedWriteReadReturned (d : Word64) : ∃ t, execMaskedWriteReadReturned e d s = .next t ∧ Kept s t := by
  refine ⟨_, rfl, ?_⟩
  split
  · split
    · split
      · exact kept_stoppedReturn s e _ _
      · exact (kept_setCapture s _ _).trans (kept_maskedWriteBack _ e _ _ _ _ _ _)
    · exact .refl s
  · exact .refl s

theorem kept_pollReadReturned (d : Word64) : ∃ t, execPollReadReturned e d s = .next t ∧ Kept s t := by
  refine ⟨_, rfl, ?_⟩
  split
  · rename_i w _ _ _ _ _
    split
    · split
      · exact kept_stoppedReturn s e _ _
      · dsimp only
        refine (kept_setCapture s (s.engine e).slot (w.fit d)).trans ?_
        split
        · exact kept_continueAfter _ e _ _
        · split
          · exact kept_endInstance _ e _ _
          · exact .same rfl rfl rfl
    · exact .refl s
  · exact .refl s

theorem kept_readFailed : ∃ t, execReadFailed e s = .next t ∧ Kept s t := by
  refine ⟨_, rfl, ?_⟩
  split
  · exact kept_failRead s e
  · exact .refl s

theorem kept_readTimeout : ∃ t, execReadTimeout e s = .next t ∧ Kept s t := by
  refine ⟨_, rfl, ?_⟩
  split
  · split
    · exact Kept.trans (t := s.noteStale (.operation e)) (.same rfl rfl rfl) (kept_failRead _ e)
    · exact .refl s
  · exact .refl s

theorem kept_writeAcceptedByLink : ∃ t, execWriteAcceptedByLink e s = .next t ∧ Kept s t := by
  refine ⟨_, rfl, ?_⟩
  split
  · rename_i rest _ _
    have taken : Kept s { s with hp := { s.hp with posted := rest } } := .same rfl rfl rfl
    split
    · dsimp only
      split
      · refine taken.trans ?_
        split
        · exact (Kept.of_eq (books_placeIfMaster _ _)).trans (kept_continueAfter _ e _ _)
        · exact kept_endInstance _ e _ _
      · exact .refl s
    · exact .refl s
  · exact .refl s

theorem kept_pollSpacingElapsed : ∃ t, execPollSpacingElapsed e s = .next t ∧ Kept s t := by
  refine ⟨_, rfl, ?_⟩
  split
  · split
    · split
      · exact .of_eq (books_placeIfMaster _ _)
      · exact kept_endInstance s e _ _
    · exact .refl s
  · exact .refl s

theorem kept_pollLimitExpired : ∃ t, execPollLimitExpired e s = .next t ∧ Kept s t := by
  refine ⟨_, rfl, ?_⟩
  split
  · split
    · exact kept_endInstance s e _ _
    · exact .refl s
  · exact .refl s

theorem kept_waitElapsed : ∃ t, execWaitElapsed e s = .next t ∧ Kept s t := by
  refine ⟨_, rfl, ?_⟩
  split
  · split
    · exact kept_continueAfter s e _ _
    · exact .refl s
  · exact .refl s

theorem kept_lineRequest : ∃ t, execLineRequest e s = .next t ∧ Kept s t := by
  refine ⟨_, rfl, ?_⟩
  split
  · rename_i l v _
    have level : Kept s (s.setLevel l v) := .same rfl rfl rfl
    dsimp only
    split
    · split
      · exact level.trans (kept_afterStop _ e _)
      · exact kept_afterStop s e _
    · split
      · exact level.trans (kept_continueAfter _ e _ _)
      · exact kept_endInstance s e _ _
  · exact .refl s

theorem kept_inputEdge (l : Fin 4) (k : EdgeKind) : ∃ t, execInputEdge l k s = .next t ∧ Kept s t := by
  refine ⟨_, rfl, ?_⟩
  split
  · split
    · exact .same rfl rfl rfl
    · exact (Kept.trans (t := s.setInput l _) (.same rfl rfl rfl) (kept_releaseAll _ l k _)).trans
        (kept_reportEdge _ l k _ _)
  · exact .refl s

theorem kept_gateOpen : ∃ t, execGateOpen s = .next t ∧ Kept s t := by
  refine ⟨_, rfl, ?_⟩
  split
  · split
    · split
      · exact .same rfl rfl rfl
      · exact .refl s
    · exact .refl s
  · exact .refl s

theorem kept_gateClose : ∃ t, execGateClose s = .next t ∧ Kept s t := by
  refine ⟨_, rfl, ?_⟩
  split
  · split
    · split
      · exact kept_closeGate s _ _ _
      · exact .refl s
    · exact .refl s
  · exact .refl s

theorem kept_lnuStepEvent : ∃ t, execLnuStepEvent s = .next t ∧ Kept s t := by
  refine ⟨_, rfl, ?_⟩
  split
  · exact .refl s
  · rename_i rest _
    have taken : Kept s { s with lnu := { s.lnu with steps := rest } } := .same rfl rfl rfl
    dsimp only
    split
    · exact taken.trans (kept_sweepUpTo _ _)
    · exact taken

theorem CqContext.account_tick (x : CqContext) : x.tick.account = x.account := by
  unfold CqContext.tick
  split <;> rfl

theorem ring_tick (x : ReqContext) : x.tick.ring? = x.ring? := by
  cases x with
  | free => rfl
  | fetch r h t l => rfl
  | effect r h e p => cases p <;> rfl

theorem books_period (n : Nat) : (s.period n).books = s.books := by
  ext1 <;> try rfl
  · funext q
    show CqContext.account ((if s.hp.condition = .fatal then s.cu else s.cu.map CqContext.tick)[q]) = (s.cu[q]).account
    split
    · rfl
    · simp [CqContext.account_tick]
  · funext c
    simp [State.books, State.period, State.ctx, ring_tick]

theorem kept_timebaseCeiling (n : Nat) : ∃ t, execTimebaseCeiling n s = .next t ∧ Kept s t := by
  refine ⟨_, rfl, ?_⟩
  split
  · exact .of_eq (books_period s n)
  · exact .refl s

end engines

/-! ## Submission rings -/

section rings

variable (c : Fin 8) (s : State)

theorem kept_writePost (d : Word64) : Kept s (s.writePost d) := by
  unfold State.writePost
  split
  · split
    · refine .of_eq ?_
      rw [books_setSq]
      exact Books.setRing_of_eq rfl
    · exact kept_postNotice s _ _ _ _ _
  · exact .refl s

/-- What makes a ring eligible for a grant (R159). -/
theorem State.eligible_iff (r : Fin 16) : s.eligible r = true ↔ s.isReady = true ∧ (s.sq r).state = .active
    ∧ (r ≠ 0 ∨ (s.sq r).fetchHold = false) ∧ (s.sq r).tail ≠ (s.sq r).head ∧ (s.sq r).inFlight = false
    ∧ s.freeCtx?.isSome = true ∧ (s.cq (s.sq r).cq).state = .active ∧ 1 ≤ (s.cq (s.sq r).cq).room := by
  simp [State.eligible, and_assoc]

theorem books_grant (r : Fin 16) : (s.grant r c).books
    = ((s.books.setAccount (s.sq r).cq
        { s.books.account (s.sq r).cq with owed := (s.books.account (s.sq r).cq).owed + 1 }).setInFlight r
          true).setHolder c (some r) := by
  unfold State.grant
  rw [books_placeIfMaster, books_setCq, books_setCtx, books_setSq]
  rfl

theorem kept_grant (r : Fin 16) (free : s.ctx c = .free) (eligible : s.eligible r = true) : Kept s (s.grant r c) := by
  obtain ⟨-, active, -, -, idle, -, -, room⟩ := (s.eligible_iff r).1 eligible
  intro law
  rw [books_grant]
  exact law.grant (r := r) (by show (s.ctx c).ring? = none; rw [free]; rfl) active idle room

theorem kept_grantTenant (r : Fin 16) (free : s.ctx c = .free) (eligible : s.eligible r = true) :
    Kept s (s.grantTenant r c) := by
  obtain ⟨-, active, -, -, idle, -, -, room⟩ := (s.eligible_iff r).1 eligible
  set t : State := { s.setSq r { s.sq r with credit := (s.sq r).credit - 1 } with
    rqe := { (s.setSq r { s.sq r with credit := (s.sq r).credit - 1 }).rqe with pointer := nextPointer r } } with ht
  have paid : t.sq r = { s.sq r with credit := (s.sq r).credit - 1 } := State.sq_setSq_self s r _
  have same : t.books = s.books := by
    show (s.setSq r { s.sq r with credit := (s.sq r).credit - 1 }).books = _
    rw [books_setSq]
    exact Books.setRing_of_eq rfl
  intro law
  show (t.grant r c).books.Sound
  rw [books_grant, same, paid]
  exact law.grant (r := r) (by show (s.ctx c).ring? = none; rw [free]; rfl) active idle room

theorem books_newRound : s.newRound.books = s.books := by
  ext1 <;> try rfl
  funext r
  simp only [State.books, State.newRound, State.sq, Fin.getElem_fin, Vector.getElem_mapFinIdx]
  split <;> rfl

/-- A ring that the arbiter picks is eligible (R160). -/
theorem State.eligible_of_pickTenant {s : State} {r : Fin 16} (h : s.pickTenant = some r) : s.eligible r = true := by
  have := List.find?_some h
  simp only [Bool.and_eq_true] at this
  exact this.1

theorem kept_requestGrant : ∃ t, execRequestGrant s = .next t ∧ Kept s t := by
  refine ⟨_, rfl, ?_⟩
  split
  · rename_i c hc
    have free := State.ctx_of_freeCtx hc
    unfold State.arbitrate
    split
    · exact kept_grant c s 0 free ‹_›
    · split
      · exact kept_grantTenant c s _ free (State.eligible_of_pickTenant ‹_›)
      · split
        · have round : Kept s s.newRound := .of_eq (books_newRound s)
          split
          · exact round.trans (kept_grantTenant c s.newRound _ free (State.eligible_of_pickTenant ‹_›))
          · exact round
        · exact .refl s
  · exact .refl s

theorem books_take (r : Fin 16) (h : Nat) (e : Entry) (holder : (s.ctx c).ring? = some r) :
    (s.take c r h e).books = s.books := by
  rw [State.take, books_setCtx, books_setSq, Books.setRing_of_eq (by rfl)]
  exact Books.setHolder_of_eq holder

theorem State.holder_of_entryFetchOf {s : State} {c : Fin 8} {r : Fin 16} {q : Nat × Nat × Bool}
    (h : s.entryFetchOf c = some (r, q)) : (s.ctx c).ring? = some r := by
  obtain ⟨head, timer, link⟩ := q
  rw [State.ctx_of_entryFetchOf h]
  rfl

theorem kept_entryTaken (e : Entry) : ∃ t, execEntryTaken c e s = .next t ∧ Kept s t := by
  refine ⟨_, rfl, ?_⟩
  split
  · rename_i r h _ _ hf
    have taken : Kept s (s.take c r h e) := .of_eq (books_take c s r h e (State.holder_of_entryFetchOf hf))
    split
    · split
      · exact taken
      · refine taken.trans (kept_completeRequest _ ?_ _)
        rw [State.take, State.ctx_setCtx_self]
        rfl
    · exact .refl s
  · exact .refl s

/-- A reservation that is given up with its context, and the drain that this allows (R164, R179). -/
theorem kept_giveUp {r : Fin 16} (holder : (s.ctx c).ring? = some r) :
    Kept s ((s.freeContext c r).releaseReservation (s.sq r).cq) := by
  intro law
  set q := (s.sq r).cq with hq
  set a := s.books.account q with ha
  have books : ((s.freeContext c r).releaseReservation q).books = ((s.books.setAccount q
      (Account.drain { a with owed := a.owed - 1 })).setInFlight r false).setHolder c none := by
    rw [State.releaseReservation, books_drain, account_setCq_self, books_setCq, Books.setAccount_twice, books_freeContext]
    rfl
  rw [books]
  have fits := law.fits q
  have drained := law.drained q
  obtain ⟨owed, state, held, keeps, drains⟩ := Account.drain_keeps (a := { a with owed := a.owed - 1 })
  refine law.complete (r := r) holder (keeps (fits.owed _ (Nat.sub_le _ _))) (drains (fun inactive => ?_)) owed
    (iff_of_eq (congrArg (· = CqState.absent) state)) held
  exact drained.resolve_right (fun full => inactive full.1)

theorem SqContext.fetchFailed_state (x : SqContext) (r : Fin 16) :
    ((x.fetchFailed r).state = .absent ↔ x.state = .absent) ∧ (x.fetchFailed r).cq = x.cq
      ∧ (x.fetchFailed r).inFlight = x.inFlight := by
  unfold SqContext.fetchFailed
  split
  · exact ⟨.rfl, rfl, rfl⟩
  · refine ⟨?_, rfl, rfl⟩
    show (if x.state = .active then SqState.faulted else x.state) = .absent ↔ _
    split <;> simp_all

theorem kept_failFetch {r : Fin 16} (holder : (s.ctx c).ring? = some r) (h : Nat) : Kept s (s.failFetch c r h) := by
  unfold State.failFetch
  dsimp only
  refine Kept.trans (kept_giveUp c s holder) ?_
  generalize (s.freeContext c r).releaseReservation (s.sq r).cq = t
  have failed : Kept t (t.setSq r ((t.sq r).fetchFailed r)) := by
    intro law
    obtain ⟨state, cq, inFlight⟩ := (t.sq r).fetchFailed_state r
    rw [books_setSq]
    refine law.setRing (r := r) inFlight (.inl cq) (fun exist => ?_) (fun absent => ?_) ?_
    · rw [show ((t.sq r).fetchFailed r).binding.cq = _ from cq]
      exact law.bound r (fun absent => exist (state.2 absent))
    · exact inFlight.trans (law.quiet r (state.1 absent))
    · by_cases absent : (t.sq r).state = .absent
      · exact .inl (state.2 absent)
      · exact .inr (.inl absent)
  exact (failed.trans (kept_postNotice _ _ _ _ _ _)).trans (kept_retireIfDone _ r)

theorem kept_entryFetchFailed : ∃ t, execEntryFetchFailed c s = .next t ∧ Kept s t := by
  refine ⟨_, rfl, ?_⟩
  split
  · exact kept_failFetch c s (State.holder_of_entryFetchOf ‹_›) _
  · exact .refl s

theorem kept_entryFetchTimeout : ∃ t, execEntryFetchTimeout c s = .next t ∧ Kept s t := by
  refine ⟨_, rfl, ?_⟩
  split
  · rename_i hf
    split
    · exact Kept.trans (t := s.noteStale (.entry c)) (.same rfl rfl rfl)
        (kept_failFetch c (s.noteStale (.entry c)) (State.holder_of_entryFetchOf hf) _)
    · exact .refl s
  · exact .refl s

/-- What CREATE SUBMISSION RING has found once it makes a ring (R168). -/
theorem State.newSq_ok {s : State} {n : Fin 16} {e : Entry} {x : SqContext} (h : s.newSq n e = .ok x) :
    (s.sq n).state = .absent ∧ (s.cq x.cq).state = .active ∧ x.state = .active ∧ x.inFlight = false := by
  unfold State.newSq at h
  split at h
  · cases h
  split at h
  · cases h
  rename_i absent
  split at h
  · cases h
  dsimp only at h
  split at h
  · cases h
  rename_i active
  split at h
  · cases h
    exact ⟨by simpa using absent, by simpa using active, rfl, rfl⟩
  · cases h

theorem kept_createSubmissionRing : ∃ t, execCreateSubmissionRing c s = .next t ∧ Kept s t := by
  refine ⟨_, rfl, ?_⟩
  split
  · rename_i hr
    split
    · exact .answer hr _
    · rename_i n _
      split
      · exact .answer hr _
      · rename_i x made
        obtain ⟨absent, active, state, idle⟩ := State.newSq_ok made
        have ready := State.ready_of_requestOf hr
        refine Kept.answerAfter (s := s) (u := s.setSq n x) (fun law => ?_) rfl hr _
        rw [books_setSq]
        have quiet : (s.books.ring n).inFlight = false := law.quiet n absent
        refine law.setRing (idle.trans quiet.symm) (.inr quiet) (fun _ => ?_) (fun _ => idle) (.inr (.inr ?_))
        · show (s.cq x.cq).state ≠ .absent
          rw [active]
          decide
        · show s.hp.condition ≠ .off ∧ s.hp.condition ≠ .teardown
          rw [ready]
          decide
  · exact .refl s

theorem State.deleteSqRefusal_none {s : State} {number : Nat} {n : Fin 16} (h : s.deleteSqRefusal number = none)
    (hn : finOf 16 number = some n) : (s.sq n).state ≠ .absent ∧ (s.sq n).state ≠ .deleting := by
  unfold State.deleteSqRefusal at h
  split at h
  · cases h
  split at h
  · cases h
  rename_i m hm
  rw [hn] at hm
  cases hm
  split at h
  · cases h
  rename_i exist
  split at h
  · cases h
  exact ⟨exist, ‹_›⟩

theorem kept_deleteSubmissionRing : ∃ t, execDeleteSubmissionRing c s = .next t ∧ Kept s t := by
  refine ⟨_, rfl, ?_⟩
  split
  · rename_i hr
    split
    · rename_i n refusal number
      obtain ⟨exist, -⟩ := State.deleteSqRefusal_none refusal number
      have deleted : Kept s (s.setSq n { s.sq n with state := .deleting }) := fun law => by
        rw [books_setSq]
        exact law.setRing (r := n) rfl (.inl rfl) (fun _ => law.bound n exist) nofun (.inr (.inl exist))
      have swept : Kept s (s.deleteSq n) := deleted.trans (.same rfl rfl rfl)
      exact (swept.answerAfter rfl hr _).trans (kept_retireIfDone _ n)
    · exact .answer hr _
    · exact .answer hr _
  · exact .refl s

end rings

/-! ## Completion rings -/

section completions

variable (c : Fin 8) (s : State)

theorem Account.fits_created (base : Addr) {size : Nat} (f : NotifyFields) (ok : ringSizeOk size = true) :
    (CqContext.created base size f).account.Fits := by
  obtain ⟨k, -, -, rfl⟩ := (ringSizeOk_iff size).1 ok
  have positive : 0 < 2 ^ k := Nat.two_pow_pos k
  exact ⟨Nat.zero_le _, .inr ⟨ok, positive, positive, Nat.zero_le _, (Nat.zero_mod _).symm⟩⟩

theorem State.newCq_ok {s : State} {q : Fin 16} {e : Entry} {x : CqContext} (h : s.newCq q e = .ok x) :
    (s.cq q).state = .absent ∧ ringSizeOk (bytesOf e 16 2) = true
      ∧ x = CqContext.created (e.extractLsb' 64 64) (bytesOf e 16 2) (notifyFieldsOf e) := by
  unfold State.newCq at h
  dsimp only at h
  split at h
  · cases h
  split at h
  · cases h
  rename_i absent
  split at h
  · rename_i valid
    cases h
    exact ⟨by simpa using absent, valid.2.1, rfl⟩
  · cases h

theorem kept_createCompletionRing : ∃ t, execCreateCompletionRing c s = .next t ∧ Kept s t := by
  refine ⟨_, rfl, ?_⟩
  split
  · rename_i hr
    split
    · exact .answer hr _
    · rename_i q _
      split
      · exact .answer hr _
      · rename_i x made
        obtain ⟨absent, size, rfl⟩ := State.newCq_ok made
        have ready := State.ready_of_requestOf hr
        refine Kept.answerAfter (s := s) (u := s.setCq q _) (fun law => ?_) rfl hr _
        rw [books_setCq]
        refine law.replaceAccount (Account.fits_created _ _ size) rfl rfl (fun r exist same => ?_) (.inr ?_)
        · have := law.bound r exist
          rw [same] at this
          exact this absent
        · show s.hp.condition ≠ .off ∧ s.hp.condition ≠ .teardown
          rw [ready]
          decide
  · exact .refl s

theorem kept_tuneCompletionRing : ∃ t, execTuneCompletionRing c s = .next t ∧ Kept s t := by
  refine ⟨_, rfl, ?_⟩
  split
  · rename_i e hr
    split
    · exact .answer hr _
    · rename_i q _
      split
      · exact .answer hr _
      · exact .answer hr _
      · split
        · have tuned : Kept s (s.setCq q ((s.cq q).tuned (notifyFieldsOf e))) := .of_eq (by
            rw [books_setCq]
            exact Books.setAccount_of_eq rfl)
          exact (tuned.answerAfter rfl hr _).trans (.of_eq (books_notifyIfDue _ q))
        · exact .answer hr _
  · exact .refl s

/-- A completion ring that DELETE COMPLETION RING deletes has no ring bound to it (R194). -/
theorem State.deleteCqRefusal_none {s : State} {number : Nat} {q : Fin 16} (h : s.deleteCqRefusal number = none)
    (hq : finOf 16 number = some q) : (s.cq q).state ≠ .absent ∧ s.cqInUse q = false := by
  unfold State.deleteCqRefusal at h
  split at h
  · cases h
  split at h
  · cases h
  rename_i m hm
  rw [hq] at hm
  cases hm
  split at h
  · cases h
  rename_i exist
  split at h
  · cases h
  rename_i unused
  exact ⟨exist, by simpa using unused⟩

theorem State.unbound_of_not_cqInUse {s : State} {q : Fin 16} (h : s.cqInUse q = false) (r : Fin 16)
    (exist : (s.sq r).state ≠ .absent) : (s.sq r).cq ≠ q := by
  intro same
  simp only [State.cqInUse, Bool.or_eq_false_iff, List.any_eq_false] at h
  have := h.1 (s.sq r) (by simp [State.sq])
  simp [exist, same] at this

theorem kept_deleteCompletionRing : ∃ t, execDeleteCompletionRing c s = .next t ∧ Kept s t := by
  refine ⟨_, rfl, ?_⟩
  split
  · rename_i hr
    split
    · rename_i q refusal number
      obtain ⟨-, unused⟩ := State.deleteCqRefusal_none refusal number
      refine Kept.answerAfter (s := s) (u := s.setCq q CqContext.absent) (fun law => ?_) rfl hr _
      rw [books_setCq]
      exact law.replaceAccount (.absent rfl (Nat.zero_le _)) rfl rfl (State.unbound_of_not_cqInUse unused) (.inl rfl)
    · exact .answer hr _
    · exact .answer hr _
  · exact .refl s

/-- The account of a ring once entries have been released: the consumer index moves on by as many (R185). -/
theorem Account.Fits.released {x : CqContext} {i : Nat} (fits : x.account.Fits) (exist : x.state ≠ .absent)
    (index : i < x.size) (enough : x.releases i ≤ x.unreleased) : (x.released i).account.Fits := by
  obtain ⟨size, produced, consumer, fit, moved⟩ := fits.ring.resolve_left exist
  change x.produced < x.size at produced
  change x.consumer < x.size at consumer
  change x.unreleased + x.owed ≤ x.size at fit
  change x.produced = (x.consumer + x.unreleased) % x.size at moved
  refine ⟨fits.lost, .inr ⟨size, produced, index, ?_, ?_⟩⟩
  · show x.unreleased - x.releases i + x.owed ≤ x.size
    omega
  · show x.produced = (i + (x.unreleased - x.releases i)) % x.size
    rw [moved]
    unfold CqContext.releases at enough ⊢
    rcases Nat.lt_or_ge i x.consumer with below | above
    · rw [Nat.mod_eq_of_lt (show i + x.size - x.consumer < x.size by omega)] at enough ⊢
      have wrapped : x.consumer + x.unreleased = i + (x.unreleased - (i + x.size - x.consumer)) + x.size := by omega
      rw [wrapped, Nat.add_mod_right]
    · have rest : i + x.size - x.consumer = i - x.consumer + x.size := by omega
      rw [rest, Nat.add_mod_right, Nat.mod_eq_of_lt (show i - x.consumer < x.size by omega)] at enough ⊢
      congr 1
      omega

theorem kept_applyRelease {q : Fin 16} {i : Nat} (exist : (s.cq q).state ≠ .absent) (index : i < (s.cq q).size)
    (enough : (s.cq q).releases i ≤ (s.cq q).unreleased) : Kept s (s.applyRelease q i) := by
  intro law
  have fits := Account.Fits.released (law.fits q) exist index enough
  unfold State.applyRelease
  split
  · rename_i active
    rw [books_drain, books_notifyIfDue, account_setCq_self, books_setCq, Books.setAccount_twice]
    obtain ⟨owed, state, held, keeps, drains⟩ := Account.drain_keeps (a := ((s.cq q).released i).rearmed.account)
    refine law.setAccount (keeps ?_) (drains (fun inactive => absurd active inactive)) owed
      (iff_of_eq (congrArg (· = CqState.absent) state)) (.inl held)
    exact fits
  · rename_i inactive
    rw [books_setCq]
    have empty : (s.books.account q).held = 0 := (law.drained q).resolve_right (fun full => inactive full.1)
    exact law.setAccount fits (.inl empty) rfl .rfl (.inl (Nat.le_refl _))

theorem kept_writeRelease (d : Word64) : Kept s (s.writeRelease d) := by
  unfold State.writeRelease
  split
  · split
    · rename_i accepted
      simp only [State.releaseAccepted, Bool.and_eq_true, decide_eq_true_iff, bne_iff_ne] at accepted
      obtain ⟨⟨⟨-, exist⟩, index⟩, enough⟩ := accepted
      exact kept_applyRelease s exist index enough
    · exact kept_postNotice s _ _ _ _ _
  · exact .refl s

theorem kept_cuWriteAcceptedByLink : ∃ t, execCuWriteAcceptedByLink s = .next t ∧ Kept s t := by
  refine ⟨_, rfl, ?_⟩
  split
  · split
    · exact .same rfl rfl rfl
    · exact .refl s
  · exact .refl s

theorem kept_holdTimerExpired (q : Fin 16) : ∃ t, execHoldTimerExpired q s = .next t ∧ Kept s t := by
  refine ⟨_, rfl, ?_⟩
  split
  · exact .of_eq (books_notifyIfDue s q)
  · exact .refl s

theorem kept_enterFatal : Kept s s.enterFatal := by
  have stopped : Kept s ((((s.fatalEngine 0).fatalEngine 1).fatalEngine 2).fatalEngine 3) :=
    (((kept_fatalEngine s 0).trans (kept_fatalEngine _ 1)).trans (kept_fatalEngine _ 2)).trans (kept_fatalEngine _ 3)
  unfold State.enterFatal
  dsimp only
  generalize (((s.fatalEngine 0).fatalEngine 1).fatalEngine 2).fatalEngine 3 = u at stopped ⊢
  exact fun law => (stopped law).withCondition (k := .fatal) (by simp)

theorem Account.Fits.fault {a : Account} (h : a.Fits) (exist : a.state ≠ .absent) (n : Nat) :
    ({ a with state := .faulted, held := 0, lost := raise a.lost n } : Account).Fits :=
  ⟨raise_le_limit _ _, .inr (h.ring.resolve_left exist)⟩

theorem kept_faultRing (w : CuWrite) (active : (s.cq w.ring).state = .active) : Kept s (s.faultRing w) := by
  have faulted : Kept s (s.setCq w.ring ((s.cq w.ring).faultedBy (s.entriesLost w))) := by
    intro law
    rw [books_setCq]
    refine law.setAccount (q := w.ring) ((law.fits w.ring).fault (fun absent => nomatch active.symm.trans absent) _) (.inl rfl) rfl ?_
      (.inl (Nat.zero_le _))
    show CqState.faulted = .absent ↔ (s.cq w.ring).state = .absent
    rw [active]
    decide
  exact faulted.trans (Kept.trans (by exact .same rfl rfl rfl) (kept_postNotice _ _ _ _ _ _))

theorem kept_cuWriteFails (w : CuWrite) : Kept s (s.cuWriteFails w) := by
  unfold State.cuWriteFails
  split
  · split
    · exact kept_enterFatal s
    · split
      · exact kept_faultRing s w ‹_›
      · exact .refl s
  · exact .refl s

theorem kept_completionWriteFailed : ∃ t, execCompletionWriteFailed s = .next t ∧ Kept s t := by
  refine ⟨_, rfl, ?_⟩
  split
  · rename_i w _ rest _
    split
    · exact Kept.trans (t := { s with hp := { s.hp with posted := rest } }) (.same rfl rfl rfl) (kept_cuWriteFails _ w)
    · exact .refl s
  · exact .refl s

end completions

end Sys2Proof.Machine

namespace Sys2Proof.Machine

open Sys2Proof

/-! ## The host port -/

section hostPort

variable (s : State)

/-- A valid administrative definition has a size that a ring can have (R201). -/
theorem ringSizeOk_of_adminValid {d : Word64} (h : adminValid d = true) : ringSizeOk (adminSize d) = true := by
  simp only [adminValid, Bool.and_eq_true, decide_eq_true_iff] at h
  exact (ringSizeOk_iff _).2 ⟨_, h.1.1, h.1.2, rfl⟩

/-- The enable builds the two rings 0 of a part that has no rings (R202). -/
theorem kept_doEnable (closed : s.books.Sound → s.books.Closed) : Kept s s.doEnable := by
  intro law
  have empty := closed law
  unfold State.doEnable
  split
  · rename_i valid
    simp only [Bool.and_eq_true] at valid
    obtain ⟨-, size⟩ := valid
    have ready := law.withCondition (k := .ready) (by simp)
    have completions := ready.replaceAccount (q := 0) (a := (ring0Cq s.hp.adminCq).account)
      (Account.fits_created _ _ (ringSizeOk_of_adminValid size)) rfl rfl (fun r exist => absurd (empty r).1 exist)
      (.inr ⟨nofun, nofun⟩)
    have quiet : (s.books.ring 0).inFlight = false := law.quiet 0 (empty 0).1
    have rings := completions.setRing (r := 0) (x := (ring0Sq s.hp.adminSq).binding) quiet.symm (.inr quiet)
      (fun _ => by
        show (Function.update s.books.account 0 (ring0Cq s.hp.adminCq).account 0).state ≠ .absent
        rw [Function.update_self]
        nofun) (fun _ => rfl) (.inr (.inr ⟨nofun, nofun⟩))
    have books : (((s.books.withCondition .ready).setAccount 0 (ring0Cq s.hp.adminCq).account).setRing 0
        (ring0Sq s.hp.adminSq).binding)
        = ((s.setSq 0 (ring0Sq s.hp.adminSq)).setCq 0 (ring0Cq s.hp.adminCq)).books.withCondition .ready := by
      rw [books_setCq, books_setSq]
      rfl
    rw [books] at rings
    exact rings
  · exact law.withCondition (k := .off) (fun _ => empty)

theorem kept_beginTeardown : Kept s s.beginTeardown := fun _ => by
  refine Books.Sound.of_empty (fun q => ?_) (fun r => ?_) (fun c => ?_)
  · show CqContext.account ((Vector.replicate 16 CqContext.absent)[q]) = _
    simp
  · show SqContext.binding ((Vector.replicate 16 SqContext.absent)[r]) = _
    simp
  · show ReqContext.ring? ((Vector.replicate 8 ReqContext.free)[c]) = _
    simp [ReqContext.ring?]

theorem sound_reset (l : List Instr) (b : List BusTxn) :
    ({ State.reset with pending := l, hp := { HostPort.reset with bus := b } } : State).books.Sound := by
  refine Books.Sound.of_empty (fun q => ?_) (fun r => ?_) (fun c => ?_)
  · show CqContext.account ((Vector.replicate 16 CqContext.absent)[q]) = _
    simp
  · show SqContext.binding ((Vector.replicate 16 SqContext.absent)[r]) = _
    simp
  · show ReqContext.ring? ((Vector.replicate 8 ReqContext.free)[c]) = _
    simp [ReqContext.ring?]

theorem kept_writeEnable (b : Bool) : Kept s (s.writeEnable b) := by
  have written : Kept s { s with hp := { s.hp with enable := b } } := .same rfl rfl rfl
  unfold State.writeEnable
  dsimp only
  refine written.trans ?_
  split
  · exact .refl _
  · rename_i off
    split
    · exact kept_doEnable _ (fun law => law.closed (.inl off))
    · split
      · exact kept_beginTeardown _
      · exact .refl _
  · split
    · exact .refl _
    · exact kept_beginTeardown _
  · split
    · exact .refl _
    · exact kept_beginTeardown _

theorem kept_teardownEnd : ∃ t, execTeardownEnd s = .next t ∧ Kept s t := by
  refine ⟨_, rfl, ?_⟩
  split
  · rename_i ended
    obtain ⟨teardown, -⟩ := ended
    unfold State.endTeardown
    dsimp only
    set t : State := { s with
      hp := { s.hp with condition := .off, fatalBit := false, configError := false, latched := none }
      lnu := { s.lnu with inputs := s.lnu.inputs.map InputLine.resumed } } with ht
    have off : Kept s t := fun law => law.withCondition (k := .off) (fun _ => law.closed (.inr teardown))
    split
    · exact off.trans (kept_doEnable t (fun law => law.closed (.inl rfl)))
    · exact off
  · exact .refl s

theorem kept_writeRegister (n : Nat) (d : Word64) : Kept s (s.writeRegister n d) := by
  unfold State.writeRegister
  split
  · exact kept_writeEnable s _
  · exact .same rfl rfl rfl
  · exact .same rfl rfl rfl
  · exact kept_writePost s d
  · exact kept_writeRelease s d
  · exact .refl s

theorem kept_registerWrite (o : BitVec 12) (a : Access) (d : Word64) :
    ∃ t, execRegisterWrite o a d s = .next t ∧ Kept s t := by
  refine ⟨_, rfl, ?_⟩
  unfold State.writeWindow
  split
  · split
    · exact kept_writeRegister s _ d
    · exact .refl s
  · split
    · unfold State.writeRegisterHalf
      split
      · exact .same rfl rfl rfl
      · exact .same rfl rfl rfl
      · split
        · exact .refl s
        · exact kept_writeRegister s _ _
    · exact .refl s
  · exact .refl s

end hostPort

/-- Every command keeps the accounting. -/
theorem exec_kept : ∀ (i : Instr) (s : State), ∃ t, exec i s = .next t ∧ Kept s t
  | .enable, s => ⟨_, rfl, kept_writeEnable s true⟩
  | .teardown, s => ⟨_, rfl, kept_writeEnable s false⟩
  | .teardownEnd, s => kept_teardownEnd s
  | .reset _, s => ⟨_, rfl, fun _ => sound_reset s.pending s.hp.bus⟩
  | .busMasterEnableChange _, _ => ⟨_, rfl, .same rfl rfl rfl⟩
  | .registerWrite o a d, s => kept_registerWrite s o a d
  | .timeLowRead, _ => ⟨_, rfl, .same rfl rfl rfl⟩
  | .post d, s => ⟨_, rfl, kept_writePost s d⟩
  | .release d, s => ⟨_, rfl, kept_writeRelease s d⟩
  | .requestGrant, s => kept_requestGrant s
  | .entryTaken c e, s => kept_entryTaken c s e
  | .entryFetchFailed c, s => kept_entryFetchFailed c s
  | .entryFetchTimeout c, s => kept_entryFetchTimeout c s
  | .staleReadData _, _ => ⟨_, rfl, .same rfl rfl rfl⟩
  | .arm c, s => kept_arm c s
  | .listFetchDone c x, s => kept_listFetchDone c s x
  | .listFetchTimeout c, s => kept_listFetchTimeout c s
  | .cancel c, s => kept_cancel c s
  | .cancelAll c, s => kept_cancelAll c s
  | .amend c, s => kept_amend c s
  | .query c, s => kept_query c s
  | .setTenantLimits c, s => kept_setTenantLimits c s
  | .setTime c, s => kept_setTime c s
  | .stepTime c, s => kept_stepTime c s
  | .slewTime c, s => kept_slewTime c s
  | .readTimeState c, s => kept_readTimeState c s
  | .slewExpired, _ => ⟨_, rfl, .same rfl rfl rfl⟩
  | .timebaseCeiling n, s => kept_timebaseCeiling s n
  | .holdDispatch c, s => kept_holdDispatch c s
  | .resumeDispatch c, s => kept_resumeDispatch c s
  | .setDispatch c, s => kept_setDispatch c s
  | .configureInputLine c, s => kept_configureInputLine c s
  | .grantLine c, s => kept_grantLine c s
  | .revokeLine c, s => kept_revokeLine c s
  | .setWindow c, s => kept_setWindow c s
  | .clearWindow c, s => kept_clearWindow c s
  | .createSubmissionRing c, s => kept_createSubmissionRing c s
  | .deleteSubmissionRing c, s => kept_deleteSubmissionRing c s
  | .createCompletionRing c, s => kept_createCompletionRing c s
  | .tuneCompletionRing c, s => kept_tuneCompletionRing c s
  | .deleteCompletionRing c, s => kept_deleteCompletionRing c s
  | .identify c, s => kept_identify c s
  | .identifyRecordIssued c n, s => kept_identifyRecordIssued c s n
  | .stage, s => ⟨_, rfl, kept_stageHead s⟩
  | .instanceStart e, s => kept_instanceStart e s
  | .budgetExpired e, s => kept_budgetExpired e s
  | .dspStepEvent, s => kept_dspStepEvent s
  | .readDataReturned e d, s => kept_readDataReturned e s d
  | .maskedWriteReadReturned e d, s => kept_maskedWriteReadReturned e s d
  | .pollReadReturned e d, s => kept_pollReadReturned e s d
  | .readFailed e, s => kept_readFailed e s
  | .readTimeout e, s => kept_readTimeout e s
  | .writeAcceptedByLink e, s => kept_writeAcceptedByLink e s
  | .pollSpacingElapsed e, s => kept_pollSpacingElapsed e s
  | .pollLimitExpired e, s => kept_pollLimitExpired e s
  | .waitElapsed e, s => kept_waitElapsed e s
  | .lineRequest e, s => kept_lineRequest e s
  | .inputEdge l k, s => kept_inputEdge s l k
  | .gateOpen, s => kept_gateOpen s
  | .gateClose, s => kept_gateClose s
  | .lnuStepEvent, s => kept_lnuStepEvent s
  | .cuWriteAcceptedByLink, s => kept_cuWriteAcceptedByLink s
  | .holdTimerExpired q, s => kept_holdTimerExpired s q
  | .completionWriteFailed, s => kept_completionWriteFailed s
  | .timebaseAdvance n, s => ⟨_, rfl, .of_eq (books_period s n)⟩

/-- Settles O55: every command keeps the books of the completion rings sound. -/
theorem completionLawIsKept : Obligations.CompletionLawIsKept := by
  unfold Obligations.CompletionLawIsKept
  refine step_keeps (fun _ _ h => h) (fun i s t law h => ?_)
  rw [completionLaw_iff] at law ⊢
  obtain ⟨u, hu, kept⟩ := exec_kept i s
  rw [h] at hu
  cases hu
  exact kept law

end Sys2Proof.Machine

/-! The clock (chapter 1): one reference period, its ceiling, the elapsed-time counters, the TIME register and the time
requests. -/

namespace Sys2Proof.Machine

open Sys2Proof

/-! ## One reference period (R2 to R4) -/

theorem exec_timebaseAdvance (credits : Nat) (s : State) : exec (.timebaseAdvance credits) s = .next (s.period credits) :=
  rfl

theorem rateOk_bounds {r : Int} (h : rateOk r = true) : -500000 ≤ r ∧ r ≤ 500000 := (of_decide_eq_true h).2

theorem Slew.rate_bounds {x : Slew} (h : x.ok = true) : -500000 ≤ x.rate ∧ x.rate ≤ 500000 := by
  have current := Slew.ok_current h
  unfold Slew.rate
  cases hx : x.current with
  | none => decide
  | endless r =>
    rw [hx] at current
    exact rateOk_bounds current
  | timed r n =>
    rw [hx] at current
    exact rateOk_bounds (Bool.and_eq_true_iff.1 current).1

/-- The addition of one period, in the integers: within the rate bounds it is never negative. -/
theorem Timebase.cast_sum {t : Timebase} (h : t.slew.ok = true) :
    (t.sum : Int) = t.fraction + 8 * (10 ^ 9 + t.slew.rate) := by
  have := Slew.rate_bounds h
  unfold Timebase.sum
  omega

theorem Timebase.advance_of_carried_le {t : Timebase} (h : t.carried ≤ Config.maxTime) :
    t.advance = { t with value := t.carried, fraction := t.sum % Config.unitsPerNs, slew := t.slew.countDown } :=
  if_pos h

theorem Timebase.advance_of_lt_carried {t : Timebase} (h : Config.maxTime < t.carried) :
    t.advance = { t with value := Config.maxTime, fraction := 0, slew := t.slew.countDown } :=
  if_neg (Nat.not_le.2 h)

@[simp] theorem State.input_period (s : State) (credits : Nat) (l : Fin 4) :
    (s.period credits).input l = { s.input l with sampled := false } := by
  simp [State.input, State.period]

@[simp] theorem State.engine_period (s : State) (credits : Nat) (e : Fin 4) :
    (s.period credits).engine e = (s.engine e).tick := by
  simp [State.engine, State.period]

@[simp] theorem State.ctx_period (s : State) (credits : Nat) (c : Fin 8) :
    (s.period credits).ctx c = (s.ctx c).tick := by
  simp [State.ctx, State.period]

theorem State.cu_period_of_fatal {s : State} (credits : Nat) (h : s.hp.condition = .fatal) :
    (s.period credits).cu = s.cu := if_pos h

theorem State.cq_period {s : State} (credits : Nat) (h : s.hp.condition ≠ .fatal) (q : Fin 16) :
    (s.period credits).cq q = (s.cq q).tick := by
  simp [State.cq, State.period, h]

/-- Settles O3: the carry of R2, in units of the fraction. -/
theorem advanceAddsOnePeriod : Obligations.AdvanceAddsOnePeriod := by
  intro s credits law below
  obtain ⟨-, fraction, slew, -⟩ := law
  have sum := Timebase.cast_sum slew
  have rate := Slew.rate_bounds slew
  have advance := Timebase.advance_of_carried_le below
  refine ⟨_, exec_timebaseAdvance credits s, ?_, ?_, s.tb.advance_state, ?_, ?_, ?_, rfl, rfl, rfl, rfl, rfl, rfl, rfl, rfl,
    rfl, rfl, rfl, rfl, rfl, s.input_period credits, rfl⟩
  all_goals
    simp only [State.period, advance, Timebase.carried, Config.unitsPerNs] at fraction ⊢
    omega

/-- Where the advance carries past the ceiling, it leaves the ceiling. -/
theorem State.tb_period_of_lt_carried {s : State} (credits : Nat) (h : Config.maxTime < s.tb.carried) :
    (s.period credits).tb = { s.tb with value := Config.maxTime, fraction := 0, slew := s.tb.slew.countDown } :=
  Timebase.advance_of_lt_carried h

theorem exec_timebaseCeiling {s : State} (credits : Nat) (h : Config.maxTime < s.tb.carried) :
    exec (.timebaseCeiling credits) s = .next (s.period credits) := congrArg Host.Outcome.next (if_pos h)

/-- From the ceiling on, every period carries past it: a period is at least 7 ns long. -/
theorem Timebase.lt_carried_of_ceiling {t : Timebase} (slew : t.slew.ok = true) (ceiling : t.value = Config.maxTime) :
    Config.maxTime < t.carried := by
  have sum := Timebase.cast_sum slew
  have rate := Slew.rate_bounds slew
  simp only [Timebase.carried, Config.unitsPerNs]
  omega

/-- Settles O4. -/
theorem advanceIsHeldAtTheCeiling : Obligations.AdvanceIsHeldAtTheCeiling := by
  constructor
  · intro s credits past
    have tb := State.tb_period_of_lt_carried credits past
    refine ⟨_, exec_timebaseCeiling credits past, rfl, by rw [tb]; rfl, by rw [tb], by rw [tb], fun r n slew => ?_, rfl, rfl,
      rfl, rfl, rfl, rfl, s.input_period credits, rfl⟩
    rw [tb, slew]
    rfl
  · intro s credits ⟨_, _, slew, _⟩ ceiling
    have tb := State.tb_period_of_lt_carried credits (Timebase.lt_carried_of_ceiling slew ceiling)
    exact ⟨_, rfl, by rw [tb]; rfl, by rw [tb]⟩

/-! ## Elapsed time (R4) -/

/-- A RUNNING engine counts its run time until a stop has reached it, and the timers of its operation path. -/
theorem Engine.tick_of_running {x : Engine} (h : x.state = .running) :
    x.tick = { x with
      runTime := if x.stop = none then tickTo x.budget x.runTime else x.runTime, path := x.path.tick } := by
  simp only [Engine.tick, h]

theorem Engine.tick_of_bound {x : Engine} (h : x.state = .bound) : x.tick = { x with fresh := false } := by
  simp only [Engine.tick, h]

theorem OpPath.tick_of_readWait {p : OpPath} (h : p.phase = .readWait) :
    p.tick = { p with
      readTimer := tickTo Config.readTimeoutNs p.readTimer
      pollLimitTimer := tickTo Config.maxWaitNs p.pollLimitTimer
      pollSpacingTimer := tickTo Config.pollSpacingNs p.pollSpacingTimer } := by
  simp only [OpPath.tick, h]

theorem OpPath.tick_of_pollGap {p : OpPath} (h : p.phase = .pollGap) :
    p.tick = { p with
      pollLimitTimer := tickTo Config.maxWaitNs p.pollLimitTimer
      pollSpacingTimer := tickTo Config.pollSpacingNs p.pollSpacingTimer } := by
  simp only [OpPath.tick, h]

theorem OpPath.tick_of_waiting {p : OpPath} (h : p.phase = .waiting) :
    p.tick = { p with waitTimer := tickTo Config.maxWaitNs p.waitTimer } := by
  simp only [OpPath.tick, h]

theorem CqContext.tick_of_not_active {x : CqContext} (h : x.state ≠ .active) : x.tick = x := if_neg h

theorem CqContext.holdTimer_tick {x : CqContext} (h : x.state = .active) :
    x.tick.holdTimer = x.holdTimer.map (tickTo Config.maxHoldNs) := by
  rw [CqContext.tick, if_pos h]

/-- A timed slew that has something left counts down. -/
theorem Slew.countDown_timed {r : Int} {n : Nat} (h : 0 < n) : (Slew.timed r n).countDown = .timed r (n - 8) := by
  obtain ⟨m, rfl⟩ : ∃ m, n = m + 1 := ⟨n - 1, by omega⟩
  rfl

/-- Settles O5, counter by counter. -/
theorem elapsedTimeCountsPeriods : Obligations.ElapsedTimeCountsPeriods := by
  intro s t credits run
  obtain rfl : s.period credits = t := by
    rw [exec_timebaseAdvance] at run
    exact Host.Outcome.next.inj run
  refine ⟨fun e running noStop => ?runTime, fun e running phase => ?readTimer, fun e running phase => ?waitTimer,
    fun e running phase => ?pollGap, fun e x w a d m limit progress => ?pollRead, fun r n slew pos => ?slew,
    fun e bound => ?fresh, fun c r h n l fetch => ?entryFetch, fun c r h x k v n l effect => ?listFetch,
    fun q n alive active timer => ?holdTimer, State.cu_period_of_fatal credits, fun q inactive => ?inactive,
    s.input_period credits⟩
  case runTime => rw [State.engine_period, Engine.tick_of_running running, if_pos noStop]; rfl
  case readTimer => rw [State.engine_period, Engine.tick_of_running running, OpPath.tick_of_readWait phase]; rfl
  case waitTimer => rw [State.engine_period, Engine.tick_of_running running, OpPath.tick_of_waiting phase]; rfl
  case pollGap =>
    rw [State.engine_period, Engine.tick_of_running running, OpPath.tick_of_pollGap phase]
    exact ⟨rfl, rfl⟩
  case pollRead =>
    obtain ⟨running, phase, -⟩ := progress
    rw [State.engine_period, Engine.tick_of_running running, OpPath.tick_of_readWait phase]
    exact ⟨rfl, rfl⟩
  case slew =>
    show s.tb.advance.slew = _
    rw [Timebase.advance_slew, slew, Slew.countDown_timed pos]
  case fresh => rw [State.engine_period, Engine.tick_of_bound bound]
  case entryFetch => rw [State.ctx_period, fetch]; rfl
  case listFetch => rw [State.ctx_period, effect]; rfl
  case holdTimer => rw [State.cq_period credits alive, CqContext.holdTimer_tick active, timer]; rfl
  case inactive =>
    by_cases fatal : s.hp.condition = .fatal
    · show (s.period credits).cu[q] = s.cu[q]
      rw [State.cu_period_of_fatal credits fatal]
    · rw [State.cq_period credits fatal, CqContext.tick_of_not_active inactive]

/-! ## The TIME register (R15 to R17) -/

/-- The high half of a 64-bit sample, as a number. -/
theorem extractHigh_ofNat (n : Nat) : (BitVec.ofNat 64 n).extractLsb' 32 32 = BitVec.ofNat 32 (n / 2 ^ 32) := by
  apply BitVec.eq_of_toNat_eq
  simp only [BitVec.extractLsb'_toNat, BitVec.toNat_ofNat, Nat.shiftRight_eq_div_pow]
  omega

/-- The low half of a 64-bit sample, as a number. -/
theorem and_low_ofNat (n : Nat) : BitVec.ofNat 64 n &&& 0xFFFFFFFF = BitVec.ofNat 64 (n % 2 ^ 32) := by
  apply BitVec.eq_of_toNat_eq
  have mask : (0xFFFFFFFF : Word64).toNat = 2 ^ 32 - 1 := rfl
  rw [BitVec.toNat_and, mask, Nat.and_two_pow_sub_one_eq_mod]
  simp only [BitVec.toNat_ofNat]
  omega

/-- Settles O6: the low half is one sample with the high half in the latch, and writes are ignored. -/
theorem timeRegister : Obligations.TimeRegister := by
  refine ⟨fun s => ⟨_, rfl, ?_, ?_⟩, fun s => ⟨rfl, rfl⟩, fun s d => ⟨rfl, rfl, rfl⟩⟩
  · show ({ s with hp := { s.hp with
        answer := BitVec.ofNat 64 s.tb.value &&& 0xFFFFFFFF
        timeLatch := (BitVec.ofNat 64 s.tb.value).extractLsb' 32 32 } } : State) = _
    rw [and_low_ofNat, extractHigh_ofNat]
  · show ((BitVec.ofNat 64 s.tb.value).extractLsb' 32 32).setWidth 64 = _
    rw [extractHigh_ofNat]

end Sys2Proof.Machine

/-! The requests that set the clock and the windows (R8 to R12, R145 to R147), and the due times of actions (R21, R22,
R80). -/

namespace Sys2Proof.Machine

open Sys2Proof

/-! ## SET TIME and STEP TIME (R8, R9) -/

theorem exec_setTime {s : State} {c : Fin 8} {e : Entry} (h : AdminWaits s c .setTime e) :
    exec (.setTime c) s = .next
      (if setTimeValue e ≤ Config.maxTime then
        (({ s with tb := { value := setTimeValue e, fraction := 0, state := .running, slew := .none } } : State).deliverStep
          { kind := .set, before := s.now, after := setTimeValue e }).completeRequest c 0
          { status := .ok, time := s.now, aux32 := s.tb.state.code, value := BitVec.ofNat 64 (setTimeValue e) }
      else s.completeRequest c 0 { status := .badTime, time := s.now, aux32 := s.tb.state.code }) := by
  show execSetTime c s = _
  rw [execSetTime, h.requestOf]

/-- Settles O7. -/
theorem setTimeSetsTheClock : Obligations.SetTimeSetsTheClock := by
  intro s c e waits
  refine ⟨_, exec_setTime waits, fun (valid : setTimeValue e ≤ Config.maxTime) => ?_,
    fun (invalid : Config.maxTime < setTimeValue e) => ?_⟩
  · rw [if_pos valid]
    exact waits.answered _ _ rfl rfl
  · rw [if_neg (Nat.not_le.2 invalid)]
    exact waits.answered _ _ rfl rfl

/-- The state in which a STEP TIME to the value `v` is answered: a step event goes out where the offset is not 0. -/
def State.steppedTo (s : State) (offset : Int) (v : Nat) : State :=
  if offset = 0 then { s with tb := { s.tb with value := v } }
  else ({ s with tb := { s.tb with value := v } } : State).deliverStep { kind := .step, before := s.now, after := v }

/-- A STEP TIME that is refused. -/
theorem exec_stepTime_refused {s : State} {c : Fin 8} {e : Entry} {st : Status} (h : AdminWaits s c .stepTime e)
    (target : stepTarget s.tb (stepOffset e) = .error st) :
    exec (.stepTime c) s
      = .next (s.completeRequest c 0 { status := st, time := s.now, aux32 := s.tb.state.code }) := by
  show execStepTime c s = _
  rw [execStepTime, h.requestOf]
  dsimp only
  rw [target]

/-- A STEP TIME that is accepted. -/
theorem exec_stepTime_accepted {s : State} {c : Fin 8} {e : Entry} {v : Nat} (h : AdminWaits s c .stepTime e)
    (target : stepTarget s.tb (stepOffset e) = .ok v) :
    exec (.stepTime c) s = .next ((s.steppedTo (stepOffset e) v).completeRequest c 0
      { status := .ok, time := s.now, aux32 := s.tb.state.code, value := BitVec.ofNat 64 v }) := by
  show execStepTime c s = _
  rw [execStepTime, h.requestOf]
  dsimp only
  rw [target]
  rfl

theorem TimebaseState.ne_unset_of_running {x : TimebaseState} (h : x = .running) : x ≠ .unset := by
  rw [h]
  nofun

theorem stepTarget_of_large {t : Timebase} {d : Int} (running : t.state = .running) (large : 2 ^ 62 ≤ d.natAbs) :
    stepTarget t d = .error .badField := by
  rw [stepTarget, if_neg (TimebaseState.ne_unset_of_running running), if_pos large]

theorem stepTarget_of_outside {t : Timebase} {d : Int} (running : t.state = .running) (small : d.natAbs < 2 ^ 62)
    (outside : t.value + d < 0 ∨ (Config.maxTime : Int) < t.value + d) : stepTarget t d = .error .badTime := by
  rw [stepTarget, if_neg (TimebaseState.ne_unset_of_running running), if_neg (Nat.not_le.2 small), if_pos outside]

theorem stepTarget_of_inside {t : Timebase} {d : Int} {v : Nat} (running : t.state = .running)
    (small : d.natAbs < 2 ^ 62) (target : t.value + d = v) (valid : v ≤ Config.maxTime) : stepTarget t d = .ok v := by
  have inside : ¬ (t.value + d < 0 ∨ (Config.maxTime : Int) < t.value + d) := by omega
  rw [stepTarget, if_neg (TimebaseState.ne_unset_of_running running), if_neg (Nat.not_le.2 small), if_neg inside, target]
  rfl

theorem stepTarget_of_unset {t : Timebase} {d : Int} (unset : t.state = .unset) :
    stepTarget t d = .error .timebaseUnset := if_pos unset

/-- Settles O8: the clauses are the branches of `stepTarget`. -/
theorem stepTimeStepsTheClock : Obligations.StepTimeStepsTheClock := by
  intro s c e d waits offset
  obtain rfl : d = stepOffset e := offset
  have refused {st : Status} (target : stepTarget s.tb (stepOffset e) = .error st) {t : State}
      (run : exec (.stepTime c) s = .next t) :
      Answered s t c 0 { status := st, time := s.tb.value, aux32 := s.tb.state.code } := by
    rw [exec_stepTime_refused waits target, Host.Outcome.next.injEq] at run
    exact run ▸ waits.answered _ _ rfl rfl
  have accepted {v : Nat} (target : stepTarget s.tb (stepOffset e) = .ok v) {t : State}
      (run : exec (.stepTime c) s = .next t) :
      Answered (s.steppedTo (stepOffset e) v) t c 0
        { status := .ok, time := s.tb.value, aux32 := s.tb.state.code, value := BitVec.ofNat 64 v } := by
    rw [exec_stepTime_accepted waits target, Host.Outcome.next.injEq] at run
    have rings : (s.steppedTo (stepOffset e) v).sq 0 = s.sq 0 ∧ (s.steppedTo (stepOffset e) v).cq 0 = s.cq 0 := by
      unfold State.steppedTo
      split <;> exact ⟨rfl, rfl⟩
    exact run ▸ waits.answered _ _ rings.1 (congrArg CqContext.state rings.2)
  obtain ⟨t, run, -⟩ := commandsKeepTheQueue (.stepTime c) s
  refine ⟨t, run, fun unset => refused (stepTarget_of_unset unset) run,
    fun running large => refused (stepTarget_of_large running large) run,
    fun running small outside => refused (stepTarget_of_outside running small outside) run,
    fun v running small target valid nonzero => ?step, fun running zero valid => ?stay⟩
  case step =>
    have answered := accepted (stepTarget_of_inside running small target valid) run
    rwa [State.steppedTo, if_neg nonzero] at answered
  case stay =>
    have target : (s.tb.value : Int) + stepOffset e = s.tb.value := by omega
    have answered := accepted (stepTarget_of_inside running (by rw [zero]; decide) target valid) run
    rwa [State.steppedTo, if_pos zero] at answered

/-! ## Slews (R10 to R12) -/

theorem exec_slewTime {s : State} {c : Fin 8} {e : Entry} (h : AdminWaits s c .slewTime e) :
    exec (.slewTime c) s = .next
      (if s.tb.state = .unset then
        s.completeRequest c 0 { status := .timebaseUnset, time := s.now, aux32 := s.tb.state.code }
      else if slewRateOf e < -Config.maxRate ∨ Config.maxRate < slewRateOf e then
        s.completeRequest c 0 { status := .badField, time := s.now, aux32 := s.tb.state.code }
      else
        ({ s with tb := { s.tb with slew := newSlew (slewRateOf e) (slewMsOf e) } }).completeRequest c 0
          { status := .ok, time := s.now, aux32 := s.tb.state.code, value := s.tb.slew.data }) := by
  show execSlewTime c s = _
  rw [execSlewTime, h.requestOf]

theorem exec_readTimeState {s : State} {c : Fin 8} {e : Entry} (h : AdminWaits s c .readTimeState e) :
    exec (.readTimeState c) s = .next (s.completeRequest c 0
      { status := .ok, time := s.now, aux32 := s.tb.state.code, value := s.tb.slew.data }) := by
  show execReadTimeState c s = _
  rw [execReadTimeState, h.requestOf]

/-- While a timed slew has something left, its record is itself. -/
theorem Slew.current_timed {r : Int} {n : Nat} (h : 0 < n) : (Slew.timed r n).current = .timed r n := by
  obtain ⟨m, rfl⟩ : ∃ m, n = m + 1 := ⟨n - 1, by omega⟩
  rfl

theorem Slew.rate_timed (r : Int) (n : Nat) : (Slew.timed r n).rate = if 0 < n then r else 0 := by
  cases n with
  | zero => rfl
  | succ n => exact (if_pos n.succ_pos).symm

/-- After k periods a timed slew has counted down by 8k ns, or is no more in force. -/
theorem Slew.rate_countDown_iterate (k : Nat) (r : Int) : ∀ n : Nat,
    (Slew.countDown^[k] (.timed r n)).rate = if 8 * k < n then r else 0 := by
  have none_stays (k : Nat) : Slew.countDown^[k] .none = .none := Function.iterate_fixed rfl k
  induction k with
  | zero => exact fun n => Slew.rate_timed r n
  | succ k ih =>
    intro n
    rw [Function.iterate_succ_apply]
    rcases Nat.eq_zero_or_pos n with rfl | pos
    · have gone : (Slew.timed r 0).countDown = .none := rfl
      rw [gone, none_stays, if_neg (by omega)]
      rfl
    · rw [Slew.countDown_timed pos, ih]
      by_cases left : 8 * (k + 1) < n
      · rw [if_pos left, if_pos (by omega)]
      · rw [if_neg left, if_neg (by omega)]

theorem Timebase.advance_iterate_slew (t : Timebase) (k : Nat) :
    (Timebase.advance^[k] t).slew = Slew.countDown^[k] t.slew := by
  induction k with
  | zero => rfl
  | succ k ih => rw [Function.iterate_succ_apply', Timebase.advance_slew, ih, Function.iterate_succ_apply']

/-- Settles O9. -/
theorem slewsAreReportedAndRunOut : Obligations.SlewsAreReportedAndRunOut := by
  refine ⟨?slewTime, ?readState, ?rounding, ?other, ?runOut, ?expires, ?early⟩
  case slewTime =>
    rintro s c e rate ms waits rfl rfl
    refine ⟨_, exec_slewTime waits, fun unset => ?_,
      fun running (outside : slewRateOf e < -Config.maxRate ∨ Config.maxRate < slewRateOf e) => ?_,
      fun running low high => ?_⟩
    · rw [if_pos unset]
      exact waits.answered _ _ rfl rfl
    · rw [if_neg (TimebaseState.ne_unset_of_running running), if_pos outside]
      exact waits.answered _ _ rfl rfl
    · have inside : ¬ (slewRateOf e < -Config.maxRate ∨ Config.maxRate < slewRateOf e) := by
        rw [not_or]
        exact ⟨Int.not_lt.2 low, Int.not_lt.2 high⟩
      rw [if_neg (TimebaseState.ne_unset_of_running running), if_neg inside]
      exact waits.answered _ _ rfl rfl
  case readState =>
    intro s c e waits
    exact ⟨_, exec_readTimeState waits, waits.answered _ _ rfl rfl⟩
  case rounding =>
    intro r n pos
    simp only [Slew.rate, Slew.remainingMs, Slew.current_timed pos, true_and]
    omega
  case other => exact ⟨rfl, rfl, fun r => ⟨rfl, rfl⟩⟩
  case runOut =>
    intro t r n k slew
    rw [Timebase.advance_iterate_slew, slew, Slew.rate_countDown_iterate]
  case expires =>
    intro s r slew
    show Host.Outcome.next { s with tb := { s.tb with slew := s.tb.slew.current } } = _
    rw [slew]
    rfl
  case early =>
    intro s r n slew
    show Host.Outcome.next { s with tb := { s.tb with slew := s.tb.slew.current } } = _
    rw [slew, Slew.current_timed n.succ_pos, ← slew]

/-! ## SET WINDOW and CLEAR WINDOW (R145 to R147) -/

theorem exec_setWindow_valid {s : State} {c : Fin 8} {e : Entry} {i : Fin 32} {w : Window}
    (h : AdminWaits s c .setWindow e) (index : bytesOf e 1 1 = i.val) (fields : windowOf e = some w) :
    exec (.setWindow c) s = .next
      (({ s with wtb := s.wtb.set i (some w) }).completeRequest c 0 (windowResult .ok s.now s.wtb[i])) := by
  show execSetWindow c s = _
  rw [execSetWindow, h.requestOf]
  dsimp only
  rw [finOf_eq_some_iff.2 index]
  dsimp only
  rw [fields]

theorem exec_setWindow_invalid {s : State} {c : Fin 8} {e : Entry} {i : Fin 32} (h : AdminWaits s c .setWindow e)
    (index : bytesOf e 1 1 = i.val) (fields : windowOf e = none) :
    exec (.setWindow c) s = .next (s.completeRequest c 0 (windowResult .badField s.now s.wtb[i])) := by
  show execSetWindow c s = _
  rw [execSetWindow, h.requestOf]
  dsimp only
  rw [finOf_eq_some_iff.2 index]
  dsimp only
  rw [fields]

theorem exec_setWindow_outside {s : State} {c : Fin 8} {e : Entry} (h : AdminWaits s c .setWindow e)
    (index : 32 ≤ bytesOf e 1 1) :
    exec (.setWindow c) s = .next (s.completeRequest c 0 (windowResult .badField s.now none)) := by
  show execSetWindow c s = _
  rw [execSetWindow, h.requestOf]
  dsimp only
  rw [finOf_eq_none_iff.2 index]

theorem exec_clearWindow_at {s : State} {c : Fin 8} {e : Entry} {i : Fin 32} (h : AdminWaits s c .clearWindow e)
    (index : bytesOf e 1 1 = i.val) :
    exec (.clearWindow c) s = .next
      (({ s with wtb := s.wtb.set i none }).completeRequest c 0 (windowResult .ok s.now s.wtb[i])) := by
  show execClearWindow c s = _
  rw [execClearWindow, h.requestOf]
  dsimp only
  rw [finOf_eq_some_iff.2 index]

theorem exec_clearWindow_outside {s : State} {c : Fin 8} {e : Entry} (h : AdminWaits s c .clearWindow e)
    (index : 32 ≤ bytesOf e 1 1) :
    exec (.clearWindow c) s = .next (s.completeRequest c 0 (windowResult .badField s.now none)) := by
  show execClearWindow c s = _
  rw [execClearWindow, h.requestOf]
  dsimp only
  rw [finOf_eq_none_iff.2 index]

/-- The sizes of a window, as SET WINDOW tests them, are the powers of two from 2^6 to 2^48. -/
theorem windowSize_iff (n : Nat) :
    ((64 ≤ n ∧ n ≤ 2 ^ 48) ∧ 2 ^ n.log2 = n) ↔ ∃ k, 6 ≤ k ∧ k ≤ 48 ∧ n = 2 ^ k := by
  constructor
  · rintro ⟨⟨low, high⟩, power⟩
    refine ⟨n.log2, ?_, ?_, power.symm⟩
    · exact (Nat.le_log2 (by omega)).2 low
    · rw [← power] at high
      exact (Nat.pow_le_pow_iff_right (by decide)).1 high
  · rintro ⟨k, low, high, rfl⟩
    exact ⟨⟨Nat.pow_le_pow_right (n := 2) (by decide) low, Nat.pow_le_pow_right (by decide) high⟩,
      by rw [Nat.log2_two_pow]⟩

/-- The checks of R145 on the fields of a SET WINDOW entry. -/
def windowFieldsOk (e : Entry) : Prop :=
  (bytesOf e 2 1 = 1 ∨ bytesOf e 2 1 = 2) ∧ (∃ k, 6 ≤ k ∧ k ≤ 48 ∧ bytesOf e 16 8 = 2 ^ k)
    ∧ (e.extractLsb' 64 64).toNat % bytesOf e 16 8 = 0 ∧ (e.extractLsb' 32 16).getLsbD 0 = false ∧ bytesOf e 3 1 ≤ 3

theorem windowOf_eq_some_iff {e : Entry} {w : Window} : windowOf e = some w ↔ windowFieldsOk e
    ∧ w = { kind := if bytesOf e 2 1 == 1 then .grant else .deny, base := e.extractLsb' 64 64, size := bytesOf e 16 8,
            tenants := e.extractLsb' 32 16, read := (bytesOf e 3 1).testBit 0, write := (bytesOf e 3 1).testBit 1 } := by
  unfold windowOf windowFieldsOk
  rw [← windowSize_iff]
  dsimp only
  split
  · rename_i checks
    simp only [Bool.and_eq_true, Bool.or_eq_true, Bool.not_eq_true', beq_iff_eq, decide_eq_true_iff] at checks
    obtain ⟨⟨⟨⟨⟨kind, size⟩, power⟩, base⟩, tenants⟩, rights⟩ := checks
    rw [Option.some.injEq, eq_comm]
    exact ⟨fun h => ⟨⟨kind, ⟨size, power⟩, base, tenants, rights⟩, h⟩, fun h => h.2⟩
  · rename_i checks
    refine ⟨nofun, fun ⟨⟨kind, ⟨size, power⟩, base, tenants, rights⟩, _⟩ => absurd ?_ checks⟩
    simp only [Bool.and_eq_true, Bool.or_eq_true, Bool.not_eq_true', beq_iff_eq, decide_eq_true_iff]
    exact ⟨⟨⟨⟨⟨kind, size⟩, power⟩, base⟩, tenants⟩, rights⟩

/-- The kind code and the kind that it names. -/
theorem windowKind_iff {n : Nat} {k : WindowKind} :
    ((n = 1 ∧ k = .grant) ∨ (n = 2 ∧ k = .deny)) ↔ (n = 1 ∨ n = 2) ∧ k = if n == 1 then .grant else .deny := by
  constructor
  · rintro (⟨rfl, rfl⟩ | ⟨rfl, rfl⟩) <;> decide
  · rintro ⟨rfl | rfl, rfl⟩ <;> decide

/-- Settles O12. -/
theorem windowCommands : Obligations.WindowCommands := by
  refine ⟨fun s c e waits => ?set, fun s c e waits => ?clear, fun e w => ?fields⟩
  case set =>
    obtain ⟨t, run, -⟩ := commandsKeepTheQueue (.setWindow c) s
    refine ⟨t, run, fun i w index valid => ?_, fun i index invalid => ?_, fun index => ?_⟩
    · rw [exec_setWindow_valid waits index valid, Host.Outcome.next.injEq] at run
      exact run ▸ waits.answered _ _ rfl rfl
    · rw [exec_setWindow_invalid waits index invalid, Host.Outcome.next.injEq] at run
      exact run ▸ waits.answered _ _ rfl rfl
    · rw [exec_setWindow_outside waits index, Host.Outcome.next.injEq] at run
      exact run ▸ waits.answered _ _ rfl rfl
  case clear =>
    obtain ⟨t, run, -⟩ := commandsKeepTheQueue (.clearWindow c) s
    refine ⟨t, run, fun i index => ?_, fun index => ?_⟩
    · rw [exec_clearWindow_at waits index, Host.Outcome.next.injEq] at run
      exact run ▸ waits.answered _ _ rfl rfl
    · rw [exec_clearWindow_outside waits index, Host.Outcome.next.injEq] at run
      exact run ▸ waits.answered _ _ rfl rfl
  case fields =>
    obtain ⟨kind, base, size, tenants, read, write⟩ := w
    rw [windowOf_eq_some_iff, windowKind_iff, windowFieldsOk, Window.mk.injEq]
    constructor
    · rintro ⟨⟨hkind, hsize, hbase, htenants, rights⟩, rfl, rfl, rfl, rfl, rfl, rfl⟩
      exact ⟨⟨hkind, rfl⟩, hsize, rfl, rfl, hbase, rfl, htenants, rights, rfl, rfl⟩
    · rintro ⟨⟨hkind, rfl⟩, hsize, rfl, rfl, hbase, rfl, htenants, rights, rfl, rfl⟩
      exact ⟨⟨hkind, hsize, hbase, htenants, rights⟩, rfl, rfl, rfl, rfl, rfl, rfl⟩

/-! ## Due times (R21, R22, R80) -/

theorem le_alignedFrom (start phase period : Nat) : start ≤ alignedFrom start phase period := Nat.le_add_right _ _

/-- The time found leaves the phase. -/
theorem alignedFrom_mod {start phase period : Nat} (h : phase < period) :
    alignedFrom start phase period % period = phase := by
  have below := Nat.mod_lt start (by omega : 0 < period)
  have split := Nat.mod_add_div start period
  have : start + (phase + period - start % period) = phase + period * (start / period + 1) := by
    rw [Nat.mul_succ]
    omega
  rw [alignedFrom, Nat.add_mod_mod, this, Nat.add_mul_mod_self_left, Nat.mod_eq_of_lt h]

/-- No earlier time from the start on leaves the phase: two times with one phase lie whole periods apart. -/
theorem alignedFrom_le {start phase period u : Nat} (h : phase < period) (from_start : start ≤ u)
    (leaves : u % period = phase) : alignedFrom start phase period ≤ u := by
  by_contra later
  have near : alignedFrom start phase period - start < period := by
    rw [alignedFrom, Nat.add_sub_cancel_left]
    exact Nat.mod_lt _ (by omega)
  have apart : period ∣ alignedFrom start phase period - u :=
    (Nat.modEq_iff_dvd' (by omega)).1 (leaves.trans (alignedFrom_mod h).symm)
  have := Nat.le_of_dvd (by omega) apart
  omega

/-- The next step takes the due past the end sample. -/
theorem lt_due_add_nextStep {due period endSample : Nat} (h : 0 < period) :
    endSample < due + nextStep due period endSample * period := by
  have split := Nat.lt_div_mul_add (a := endSample - due) h
  rw [nextStep, Nat.succ_mul]
  omega

theorem nextStep_le {due period endSample k : Nat} (h : 0 < period) (pos : 1 ≤ k) (past : endSample < due + k * period) :
    nextStep due period endSample ≤ k := by
  rw [nextStep, Nat.succ_le_iff, Nat.div_lt_iff_lt_mul h]
  have := Nat.mul_pos pos h
  omega

/-- Settles O14. -/
theorem firstAndNextDue : Obligations.FirstAndNextDue := by
  refine ⟨fun phase period sample lead below => ?_, fun due period sample lead => rfl,
    fun offset period sample lead => rfl, fun due period endSample pos => ?_⟩
  · exact ⟨le_alignedFrom _ _ _, alignedFrom_mod below, fun u => alignedFrom_le below, rfl⟩
  · exact ⟨Nat.le_add_left 1 _, lt_due_add_nextStep pos, fun k => nextStep_le pos⟩

end Sys2Proof.Machine

/-! The requests at the action store: CANCEL, CANCEL ALL, AMEND, QUERY and SET TENANT LIMITS (R45 to R47, R54 to R60). -/

namespace Sys2Proof.Machine

open Sys2Proof

/-- A command that has been found to answer `u` answers no other state. -/
theorem next_unique {i : Instr} {s t u : State} (run : exec i s = .next t) (h : exec i s = .next u) : u = t := by
  rw [h] at run
  exact Host.Outcome.next.inj run

theorem SlotState.removable_iff (x : SlotState) :
    x.removable = true ↔ x = .armed ∨ x = .awaiting ∨ x = .listening := by
  cases x <;> decide

theorem SlotState.onEngine_iff (x : SlotState) : x.onEngine = true ↔ x = .staged ∨ x = .firing := by
  cases x <;> decide

theorem SlotState.not_removable_of_onEngine {x : SlotState} (h : x.onEngine = true) : x.removable = false := by
  cases x <;> first | rfl | cases h

theorem Slot.recurring_iff (x : Slot) : x.recurring = true ↔ x.period ≠ 0 := by
  simp only [Slot.recurring, bne_iff_ne]

theorem Slot.recurring_eq_false_iff (x : Slot) : x.recurring = false ↔ x.period = 0 := by
  simp only [Slot.recurring, bne_eq_false_iff_eq]

theorem Slot.marks_iff (x : Slot) : x.marks = true ↔ (x.state = .staged ∨ x.state = .firing) ∧ x.period ≠ 0 := by
  rw [Slot.marks, Bool.and_eq_true, SlotState.onEngine_iff, Slot.recurring_iff]

theorem sweepRemoves_iff (r : Fin 16) (x : Slot) :
    sweepRemoves r x = true ↔ x.ring = r ∧ (x.state = .armed ∨ x.state = .awaiting ∨ x.state = .listening) := by
  rw [sweepRemoves, Bool.and_eq_true, beq_iff_eq, SlotState.removable_iff]

/-! ## CANCEL (R54) -/

theorem exec_cancel_unknown {s : State} {c : Fin 8} {r : Fin 16} {e : Entry} (h : TenantWaits s c .cancel r e)
    (lookup : s.tagLookup r (tagOf e) = none) :
    exec (.cancel c) s
      = .next (s.completeRequest c r { status := .unknownTag, time := s.now, tag := tagOf e }) := by
  show execCancel c s = _
  rw [execCancel, h.requestOf]
  dsimp only
  rw [lookup]

theorem exec_cancel_found {s : State} {c : Fin 8} {r : Fin 16} {e : Entry} {id : Nat} {x : Slot}
    (h : TenantWaits s c .cancel r e) (lookup : s.tagLookup r (tagOf e) = some (id, x)) :
    exec (.cancel c) s = .next ((s.cancelSlot id x).2.2.completeRequest c r
      { status := (s.cancelSlot id x).1, time := s.now, tag := tagOf e, aux32 := x.state.code,
        value := BitVec.ofNat 64 (s.cancelSlot id x).2.1 }) := by
  show execCancel c s = _
  rw [execCancel, h.requestOf]
  dsimp only
  rw [lookup]

theorem State.cancelSlot_removable (s : State) (id : Nat) {x : Slot} (h : x.state.removable = true) :
    s.cancelSlot id x = (.ok, x.keyTime, s.freeSlot id) := if_pos h

theorem State.cancelSlot_marks (s : State) (id : Nat) {x : Slot} (h : x.marks = true) :
    s.cancelSlot id x = (.cancelDeferred, x.due, s.setSlot id { x with endRequested := true }) := by
  have onEngine := (Bool.and_eq_true_iff.1 h).1
  rw [State.cancelSlot, if_neg (Bool.eq_false_iff.1 (SlotState.not_removable_of_onEngine onEngine)), if_pos h]

theorem State.cancelSlot_single (s : State) (id : Nat) {x : Slot} (onEngine : x.state.onEngine = true)
    (single : x.period = 0) : s.cancelSlot id x = (.tooLate, x.due, s) := by
  have unmarked : ¬ x.marks = true := fun h => ((x.marks_iff).1 h).2 single
  rw [State.cancelSlot, if_neg (Bool.eq_false_iff.1 (SlotState.not_removable_of_onEngine onEngine)), if_neg unmarked]

/-- Settles O19, by the state of the slot found. -/
theorem cancelByStateFound : Obligations.CancelByStateFound := by
  intro s c r e waits
  obtain ⟨t, run, -⟩ := commandsKeepTheQueue (.cancel c) s
  refine ⟨t, run, fun lookup => ?unknown, fun id x lookup => ⟨fun state => ?removed, fun state recurring => ?marked,
    fun state single => ?late⟩⟩
  case unknown => exact next_unique run (exec_cancel_unknown waits lookup) ▸ waits.answered _ _ rfl rfl
  case removed =>
    have found := exec_cancel_found waits lookup
    rw [s.cancelSlot_removable id ((SlotState.removable_iff _).2 state)] at found
    exact next_unique run found ▸ waits.answered _ _ rfl rfl
  case marked =>
    have found := exec_cancel_found waits lookup
    rw [s.cancelSlot_marks id ((x.marks_iff).2 ⟨state, recurring⟩)] at found
    exact next_unique run found ▸ waits.answered _ _ rfl rfl
  case late =>
    have found := exec_cancel_found waits lookup
    rw [s.cancelSlot_single id ((SlotState.onEngine_iff _).2 state) single] at found
    exact next_unique run found ▸ waits.answered _ _ rfl rfl

/-! ## CANCEL ALL (R57) -/

theorem exec_cancelAll {s : State} {c : Fin 8} {r : Fin 16} {e : Entry} (h : TenantWaits s c .cancelAll r e) :
    exec (.cancelAll c) s = .next ((s.sweepRing r).completeRequest c r
      { status := .ok, time := s.now, aux32 := s.sweepRemoved r,
        value := packValue (s.sweepMarked r) 32 (s.sweepLeft r) }) := by
  show execCancelAll c s = _
  rw [execCancelAll, h.requestOf]

/-- The slots that the sweep of a ring finds, state by state (R57). -/
theorem State.slot?_sweepRing {s : State} (rising : Rising s.ast.slots) (r : Fin 16) (id : Nat) :
    (s.sweepRing r).slot? id = ((s.slot? id).filter (fun x => !sweepRemoves r x)).map (Board.swept r) :=
  Board.slotGet_sweepSlots rising r id

theorem State.slot?_sweepRing_of_none {s : State} (rising : Rising s.ast.slots) (r : Fin 16) {id : Nat}
    (h : s.slot? id = none) : (s.sweepRing r).slot? id = none := by
  rw [State.slot?_sweepRing rising, h]
  rfl

theorem State.slot?_sweepRing_of_some {s : State} (rising : Rising s.ast.slots) (r : Fin 16) {id : Nat} {x : Slot}
    (h : s.slot? id = some x) : (s.sweepRing r).slot? id
      = if x.ring = r ∧ (x.state = .armed ∨ x.state = .awaiting ∨ x.state = .listening) then none
        else if x.ring = r ∧ (x.state = .staged ∨ x.state = .firing) ∧ x.period ≠ 0 then
          some { x with endRequested := true }
        else some x := by
  rw [State.slot?_sweepRing rising, h]
  by_cases removed : sweepRemoves r x = true
  · rw [if_pos ((sweepRemoves_iff r x).1 removed)]
    simp only [Option.filter, removed, Bool.not_true, Bool.false_eq_true, if_false, Option.map_none]
  · rw [if_neg (mt (sweepRemoves_iff r x).2 removed)]
    have stays : (some x).filter (fun x => !sweepRemoves r x) = some x := by
      simp only [Option.filter, Bool.eq_false_iff.2 removed, Bool.not_false, if_true]
    rw [stays, Option.map_some, Board.swept]
    by_cases marked : x.ring = r ∧ x.marks = true
    · rw [if_pos (by rw [Bool.and_eq_true, beq_iff_eq]; exact marked), if_pos (by rw [← Slot.marks_iff]; exact marked)]
    · rw [if_neg (by rw [Bool.and_eq_true, beq_iff_eq]; exact marked), if_neg (by rw [← Slot.marks_iff]; exact marked)]

/-- The numbers that the sweep of a ring takes out of the places. -/
def State.sweepGone (s : State) (r : Fin 16) (id : Nat) : Bool :=
  s.ast.slots.any (fun p => p.1 == id && sweepRemoves r p.2)

theorem State.sweepRing_eq (s : State) (r : Fin 16) : s.sweepRing r =
    { s.unplace (s.sweepGone r) with ast := { s.ast with slots := sweepSlots r s.ast.slots } } := rfl

theorem State.sweepGone_iff {s : State} (rising : Rising s.ast.slots) (r : Fin 16) (id : Nat) :
    s.sweepGone r id = true ↔ ∃ x, s.slot? id = some x ∧ x.ring = r
      ∧ (x.state = .armed ∨ x.state = .awaiting ∨ x.state = .listening) := by
  rw [State.sweepGone, Board.any_slot_iff rising, Option.any_eq_true]
  simp only [sweepRemoves_iff]
  rfl

/-- What the sweep of a ring leaves in the firing schedule, the gate calendar and the listen lists (R57, R61). -/
theorem State.sweepRing_places (s : State) (r : Fin 16) {removed : Nat → Prop}
    (gone : ∀ id, s.sweepGone r id = true ↔ removed id) :
    (s.sweepRing r).dsp.schedule.Sublist s.dsp.schedule
    ∧ (∀ y, y ∈ (s.sweepRing r).dsp.schedule ↔ y ∈ s.dsp.schedule ∧ ¬ removed y.slot)
    ∧ (s.sweepRing r).lnu.calendar.Sublist s.lnu.calendar
    ∧ (∀ y, y ∈ (s.sweepRing r).lnu.calendar ↔ y ∈ s.lnu.calendar ∧ ¬ removed y.slot)
    ∧ ∀ l : Fin 4, (s.sweepRing r).lnu.listen[l].Sublist s.lnu.listen[l]
        ∧ ∀ id, id ∈ (s.sweepRing r).lnu.listen[l] ↔ id ∈ s.lnu.listen[l] ∧ ¬ removed id := by
  have listen (l : Fin 4) : (s.sweepRing r).lnu.listen[l] = s.lnu.listen[l].filter (fun id => !s.sweepGone r id) := by
    rw [State.sweepRing_eq]
    simp [State.unplace]
  refine ⟨List.filter_sublist, fun y => ?_, List.filter_sublist, fun y => ?_, fun l => ⟨?_, fun id => ?_⟩⟩
  · rw [State.sweepRing_eq, ← gone]
    simp [State.unplace]
  · rw [State.sweepRing_eq, ← gone]
    simp [State.unplace]
  · rw [listen]
    exact List.filter_sublist
  · rw [listen, ← gone]
    simp

theorem State.sweepRemoved_eq (s : State) (r : Fin 16) :
    s.sweepRemoved r = s.ast.slots.countP (fun p => decide (p.2.ring = r
      ∧ (p.2.state = .armed ∨ p.2.state = .awaiting ∨ p.2.state = .listening))) :=
  List.countP_congr (fun p _ => by rw [sweepRemoves_iff, decide_eq_true_iff])

theorem State.sweepMarked_eq (s : State) (r : Fin 16) :
    s.sweepMarked r = s.ast.slots.countP (fun p => decide (p.2.ring = r
      ∧ (p.2.state = .staged ∨ p.2.state = .firing) ∧ p.2.period ≠ 0)) :=
  List.countP_congr (fun p _ => by rw [Bool.and_eq_true, beq_iff_eq, Slot.marks_iff, decide_eq_true_iff])

theorem State.sweepLeft_eq (s : State) (r : Fin 16) :
    s.sweepLeft r = s.ast.slots.countP (fun p => decide (p.2.ring = r
      ∧ (p.2.state = .staged ∨ p.2.state = .firing) ∧ p.2.period = 0)) :=
  List.countP_congr (fun p _ => by
    rw [Bool.and_eq_true, Bool.and_eq_true, beq_iff_eq, SlotState.onEngine_iff, Bool.not_eq_true',
      Slot.recurring_eq_false_iff, decide_eq_true_iff, and_assoc])

/-- Settles O20: the state that is answered is the one that the sweep of the ring leaves. -/
theorem cancelAllSweepsTheRing : Obligations.CancelAllSweepsTheRing := by
  intro s c r e removed waits law isRemoved
  have rising : Rising s.ast.slots := law.1
  obtain ⟨schedule, inSchedule, calendar, inCalendar, listen⟩ :=
    s.sweepRing_places r (fun id => (State.sweepGone_iff rising r id).trans (isRemoved id).symm)
  refine ⟨_, s.sweepRing r, exec_cancelAll waits, ?_, fun id => State.slot?_sweepRing_of_none rising r,
    fun id x => State.slot?_sweepRing_of_some rising r, schedule, inSchedule, calendar, inCalendar, listen,
    rfl, rfl, rfl, rfl, rfl, rfl, rfl, rfl, rfl, rfl⟩
  rw [State.sweepRemoved_eq, State.sweepMarked_eq, State.sweepLeft_eq]
  exact waits.answered _ _ rfl rfl

/-! ## AMEND (R58, R59) -/

theorem exec_amend_refused {s : State} {c : Fin 8} {r : Fin 16} {e : Entry} {st : Status} {found v : Nat}
    (h : TenantWaits s c .amend r e) (verdict : s.amendVerdict r e = .refuse st found v) :
    exec (.amend c) s = .next (s.completeRequest c r
      { status := st, time := s.now, tag := tagOf e, aux32 := found, value := BitVec.ofNat 64 v }) := by
  show execAmend c s = _
  rw [execAmend, h.requestOf]
  dsimp only
  rw [verdict]

theorem exec_amend_accepted {s : State} {c : Fin 8} {r : Fin 16} {e : Entry} {id due : Nat} {x : Slot}
    (h : TenantWaits s c .amend r e) (verdict : s.amendVerdict r e = .accept id x due) :
    exec (.amend c) s = .next ((s.reenter id x due).completeRequest c r
      { status := .ok, time := s.now, tag := tagOf e, aux32 := SlotState.armed.code,
        value := BitVec.ofNat 64 due }) := by
  show execAmend c s = _
  rw [execAmend, h.requestOf]
  dsimp only
  rw [verdict]

theorem State.amendVerdict_of_shape {s : State} {r : Fin 16} {e : Entry} (h : (amendFieldsOf e).shapeOk = false) :
    s.amendVerdict r e = .refuse .badField 0 0 := if_neg (Bool.eq_false_iff.1 h)

theorem State.amendVerdict_of_unknown {s : State} {r : Fin 16} {e : Entry} (h : (amendFieldsOf e).shapeOk = true)
    (lookup : s.tagLookup r (amendFieldsOf e).tag = none) : s.amendVerdict r e = .refuse .unknownTag 0 0 := by
  unfold State.amendVerdict
  dsimp only
  rw [if_pos h, lookup]

theorem State.amendVerdict_of_found {s : State} {r : Fin 16} {e : Entry} {id : Nat} {x : Slot}
    (h : (amendFieldsOf e).shapeOk = true) (lookup : s.tagLookup r (amendFieldsOf e).tag = some (id, x)) :
    s.amendVerdict r e = s.amendFound (amendFieldsOf e) id x := by
  unfold State.amendVerdict
  dsimp only
  rw [if_pos h, lookup]

theorem State.amendFound_of_onEngine (s : State) (f : AmendFields) (id : Nat) {x : Slot}
    (h : x.state = .staged ∨ x.state = .firing) : s.amendFound f id x = .refuse .tooLate x.state.code x.due :=
  if_pos ((SlotState.onEngine_iff _).2 h)

theorem State.amendFound_of_gated (s : State) (f : AmendFields) (id : Nat) {x : Slot}
    (h : x.state = .awaiting ∨ x.state = .listening) : s.amendFound f id x = .refuse .wrongState x.state.code 0 := by
  unfold State.amendFound
  rcases h with h | h <;> rw [h] <;> rfl

/-- From step 4 of R58 on, for an ARMED action. -/
theorem State.amendFound_of_armed (s : State) (f : AmendFields) (id : Nat) {x : Slot} (h : x.state = .armed) :
    s.amendFound f id x = if f.periodPresent = 1 ∧ x.period = 0 then .refuse .badField 2 0
      else if Config.maxTime < f.newDue s.now then .refuse .badTime 2 0
      else .accept id (amendedSlot f x) (f.newDue s.now) := by
  unfold State.amendFound
  rw [h, if_neg (by decide : ¬ SlotState.armed.onEngine = true), if_neg (by decide : ¬ SlotState.armed ≠ .armed)]
  exact if_congr (and_congr_right fun _ => x.recurring_eq_false_iff) rfl rfl

theorem amendedSlot_eq (f : AmendFields) (x : Slot) : amendedSlot f x =
    { x with tolerance := if f.tolerancePresent = 1 then f.tolerance else x.tolerance
             period := if f.periodPresent = 1 then f.period else x.period } := by
  simp only [amendedSlot, beq_iff_eq]

/-- Step 1 of R58 in the words of section 11.2.4. -/
theorem AmendFields.shapeOk_iff (f : AmendFields) : f.shapeOk = true ↔
    (f.dueMode = 1 ∨ f.dueMode = 2) ∧ f.tolerancePresent ≤ 1 ∧ f.periodPresent ≤ 1
    ∧ (f.tolerancePresent = 0 → f.tolerance = 0) ∧ (f.periodPresent = 0 → f.period = 0)
    ∧ (f.periodPresent = 1 → 1000 ≤ f.period ∧ f.period ≤ 2 ^ 48) := by
  unfold AmendFields.shapeOk Config.minPeriod Config.maxPeriod
  by_cases present : f.periodPresent = 1
  · rw [if_pos (beq_iff_eq.2 present)]
    simp only [Bool.and_eq_true, Bool.or_eq_true, beq_iff_eq, decide_eq_true_iff]
    omega
  · rw [if_neg (by rw [beq_iff_eq]; exact present)]
    simp only [Bool.and_eq_true, Bool.or_eq_true, beq_iff_eq, decide_eq_true_iff]
    omega

/-- Settles O21: the verdict of `amendVerdict`, check by check. -/
theorem amendMovesAnArmedAction : Obligations.AmendMovesAnArmedAction := by
  constructor
  · rintro s c r e f waits rfl
    obtain ⟨t, run, -⟩ := commandsKeepTheQueue (.amend c) s
    have refused {st : Status} {found v : Nat} (verdict : s.amendVerdict r e = .refuse st found v) :
        Answered s t c r { status := st, time := s.tb.value, tag := (amendFieldsOf e).tag, aux32 := found,
                           value := BitVec.ofNat 64 v } :=
      next_unique run (exec_amend_refused waits verdict) ▸ waits.answered _ _ rfl rfl
    refine ⟨t, run, fun shape => refused (State.amendVerdict_of_shape shape),
      fun shape lookup => refused (State.amendVerdict_of_unknown shape lookup), fun id x shape lookup => ?_⟩
    have found := State.amendVerdict_of_found shape lookup
    refine ⟨fun state => refused (found.trans (s.amendFound_of_onEngine _ id state)),
      fun state => refused (found.trans (s.amendFound_of_gated _ id state)), fun armed present single => ?_,
      fun armed period invalid => ?_, fun armed period valid => ?_⟩
    · refine refused (found.trans ((s.amendFound_of_armed _ id armed).trans ?_))
      rw [if_pos ⟨present, single⟩]
    · refine refused (found.trans ((s.amendFound_of_armed _ id armed).trans ?_))
      rw [if_neg (fun h => period h.1 h.2), if_pos (by exact invalid)]
    · have verdict := found.trans (s.amendFound_of_armed _ id armed)
      rw [if_neg (fun h => period h.1 h.2), if_neg (by exact Nat.not_lt.2 valid), amendedSlot_eq] at verdict
      exact next_unique run (exec_amend_accepted waits verdict) ▸ waits.answered _ _ rfl rfl
  · rintro e f rfl
    refine ⟨rfl, rfl, rfl, rfl, rfl, fun sample => ⟨fun mode => ?_, fun mode => ?_⟩, AmendFields.shapeOk_iff _⟩
    · exact if_pos (by rw [beq_iff_eq]; exact mode)
    · have other : ¬ ((amendFieldsOf e).dueMode == 1) = true := by
        rw [beq_iff_eq]
        show ¬ bytesOf e 1 1 = 1
        omega
      exact if_neg other

/-! ## QUERY (R60, R45) -/

theorem exec_query {s : State} {c : Fin 8} {r : Fin 16} {e : Entry} (h : TenantWaits s c .query r e) :
    exec (.query c) s = .next (s.completeRequest c r (s.queryResult r (tagOf e))) := by
  show execQuery c s = _
  rw [execQuery, h.requestOf]

/-- R45: under the store law a ring and a tag name the one slot that is occupied with both. -/
theorem State.tagLookup_eq_some_iff {s : State} (law : StoreLaw s) {r : Fin 16} {tag : Word32} {id : Nat} {x : Slot} :
    s.tagLookup r tag = some (id, x) ↔ s.slot? id = some x ∧ x.ring = r ∧ x.tag = tag := by
  obtain ⟨rising, -, unique, -⟩ := law
  constructor
  · intro lookup
    obtain ⟨listed, names⟩ := State.tagLookup_some lookup
    exact ⟨slotGet_of_mem rising listed, names⟩
  · rintro ⟨slot, ring, same⟩
    have listed := slotGet_mem slot
    cases found : s.tagLookup r tag with
    | none => exact absurd ⟨ring, same⟩ (State.tagLookup_none found _ listed)
    | some p =>
      obtain ⟨listed', ring', same'⟩ := State.tagLookup_some found
      have symmetric : Std.Symm (fun a b : Nat × Slot => ¬ (a.2.ring = b.2.ring ∧ a.2.tag = b.2.tag)) :=
        ⟨fun _ _ h k => h ⟨k.1.symm, k.2.symm⟩⟩
      by_contra differ
      exact unique.forall listed' listed (fun h => differ (congrArg some h))
        ⟨ring'.trans ring.symm, same'.trans same.symm⟩

/-- Settles O22. -/
theorem queryReportsTheSlot : Obligations.QueryReportsTheSlot := by
  refine ⟨fun s c r e waits => ⟨_, exec_query waits, fun lookup => ?_, fun id x lookup => ?_⟩,
    fun s r tag id x law => State.tagLookup_eq_some_iff law⟩
  · have result : s.queryResult r (tagOf e) = { status := .unknownTag, time := s.now, tag := tagOf e } := by
      unfold State.queryResult
      rw [show s.tagLookup r (tagOf e) = none from lookup]
    rw [result]
    exact waits.answered _ _ rfl rfl
  · have result : s.queryResult r (tagOf e)
        = { status := .ok, time := s.now, tag := tagOf e, aux32 := x.ended, value := BitVec.ofNat 64 x.keyTime,
            opIndex := x.state.code } := by
      unfold State.queryResult
      rw [show s.tagLookup r (tagOf e) = some (id, x) from lookup]
    rw [result]
    exact waits.answered _ _ rfl rfl

/-! ## SET TENANT LIMITS (R46, R47) -/

theorem exec_setTenantLimits_none {s : State} {c : Fin 8} {e : Entry} (h : AdminWaits s c .setTenantLimits e)
    (outside : bytesOf e 1 1 = 0 ∨ 15 < bytesOf e 1 1) :
    exec (.setTenantLimits c) s = .next (s.completeRequest c 0 { status := .badField, time := s.now }) := by
  show execSetTenantLimits c s = _
  rw [execSetTenantLimits, h.requestOf]
  dsimp only
  rcases outside with zero | above
  · rw [(finOf_eq_some_iff (i := (0 : Fin 16))).2 zero]
    rfl
  · rw [finOf_eq_none_iff.2 above]

theorem exec_setTenantLimits_at {s : State} {c : Fin 8} {e : Entry} {n : Fin 16} (h : AdminWaits s c .setTenantLimits e)
    (tenant : n ≠ 0) (number : bytesOf e 1 1 = n.val) :
    exec (.setTenantLimits c) s = .next
      (if Config.maxQuota < bytesOf e 8 2 then s.completeRequest c 0
        { status := .badField, time := s.now, aux32 := s.holdings n.val, value := BitVec.ofNat 64 s.ast.quotas[n] }
      else if bytesOf e 8 2 < s.holdings n.val then s.completeRequest c 0
        { status := .inUse, time := s.now, aux32 := s.holdings n.val, value := BitVec.ofNat 64 s.ast.quotas[n] }
      else ({ s with ast := { s.ast with quotas := s.ast.quotas.set n (bytesOf e 8 2) } }).completeRequest c 0
        { status := .ok, time := s.now, aux32 := s.holdings n.val, value := BitVec.ofNat 64 (bytesOf e 8 2) }) := by
  show execSetTenantLimits c s = _
  rw [execSetTenantLimits, h.requestOf]
  dsimp only
  rw [finOf_eq_some_iff.2 number]
  dsimp only
  rw [if_neg tenant]

/-- With rising numbers below `n`, the listed slots are counted by their numbers. -/
theorem countP_slots_eq {l : List (Nat × Slot)} (rising : Rising l) {n : Nat} (below : ∀ p ∈ l, p.1 < n)
    (q : Slot → Bool) : l.countP (fun p => q p.2) = (List.range n).countP (fun id => (slotGet l id).any q) := by
  have keys : ((l.filter (fun p => q p.2)).map Prod.fst).Nodup :=
    List.Pairwise.map _ (fun _ _ h => Nat.ne_of_lt h) (List.Pairwise.filter _ rising)
  have numbers : ((List.range n).filter (fun id => (slotGet l id).any q)).Nodup := List.nodup_range.filter _
  rw [List.countP_eq_length_filter, List.countP_eq_length_filter, ← List.length_map (f := Prod.fst)]
  refine ((List.perm_ext_iff_of_nodup keys numbers).2 (fun id => ?_)).length_eq
  simp only [List.mem_map, List.mem_filter, List.mem_range, Option.any_eq_true]
  constructor
  · rintro ⟨⟨k, x⟩, ⟨listed, holds⟩, rfl⟩
    exact ⟨below _ listed, x, slotGet_of_mem rising listed, holds⟩
  · rintro ⟨-, x, slot, holds⟩
    exact ⟨(id, x), ⟨slotGet_mem slot, holds⟩, rfl⟩

theorem StoreLaw.holdings_eq {s : State} (law : StoreLaw s) (n : Nat) :
    s.holdings n = (List.range 1024).countP (fun id => (s.slot? id).any (fun x => x.tenant == n)) :=
  countP_slots_eq law.1 law.2.1 (fun x => x.tenant == n)

theorem State.quota_val (s : State) (n : Fin 16) : s.quota n.val = s.ast.quotas[n] := by
  simp [State.quota]

/-- Settles O23. -/
theorem setTenantLimitsChecksHoldings : Obligations.SetTenantLimitsChecksHoldings := by
  refine ⟨fun s c e waits => ?_, fun s n => ⟨s.quota_val n, fun law => (law.holdings_eq n.val).trans ?_⟩⟩
  · obtain ⟨t, run, -⟩ := commandsKeepTheQueue (.setTenantLimits c) s
    refine ⟨t, run, fun outside => ?_, fun n tenant number => ?_⟩
    · exact next_unique run (exec_setTenantLimits_none waits outside) ▸ waits.answered _ _ rfl rfl
    · obtain rfl := next_unique run (exec_setTenantLimits_at waits tenant number)
      refine ⟨fun above => ?_, fun within short => ?_, fun within enough => ?_⟩
      · rw [if_pos (by exact above)]
        exact waits.answered _ _ rfl rfl
      · rw [if_neg (by exact Nat.not_lt.2 within), if_pos short]
        exact waits.answered _ _ rfl rfl
      · rw [if_neg (by exact Nat.not_lt.2 within), if_neg (Nat.not_lt.2 enough)]
        exact waits.answered _ _ rfl rfl
  · refine List.countP_congr (fun id _ => ?_)
    cases s.slot? id <;> rfl

end Sys2Proof.Machine

/-! The layouts: operation records (section 11.2.3), completion entries (section 11.3), codes and packed values (section
11.5). -/

namespace Sys2Proof.Machine

open Sys2Proof

/-! ## Fields of a record -/

/-- A range of bits is 0 exactly when its two parts are. -/
theorem extractLsb'_add_eq_zero_iff {n : Nat} (x : BitVec n) (start a b : Nat) :
    x.extractLsb' start (a + b) = 0 ↔ x.extractLsb' start a = 0 ∧ x.extractLsb' (start + a) b = 0 := by
  have split : (x.toNat >>> start) % 2 ^ (a + b)
      = (x.toNat >>> start) % 2 ^ a + 2 ^ a * ((x.toNat >>> (start + a)) % 2 ^ b) := by
    rw [Nat.pow_add, Nat.mod_mul, Nat.shiftRight_add, Nat.shiftRight_eq_div_pow _ a]
  have pos : 0 < 2 ^ a := Nat.two_pow_pos a
  simp only [← BitVec.toNat_inj, BitVec.extractLsb'_toNat, BitVec.ofNat_eq_ofNat, BitVec.toNat_ofNat, Nat.zero_mod, split,
    Nat.add_eq_zero_iff, Nat.mul_eq_zero, Nat.pow_eq_zero]
  simp

theorem toNat_extractLsb'_eq_zero_iff {n : Nat} (x : BitVec n) (start len : Nat) :
    (x.extractLsb' start len).toNat = 0 ↔ x.extractLsb' start len = 0 := by
  rw [← BitVec.toNat_inj]
  simp

/-- The fields of a record, put together again, are the record. -/
theorem recordOf_opFieldsOf (r : Record) : recordOf (opFieldsOf r) = r := by
  unfold recordOf opFieldsOf bytesOf
  simp only [BitVec.ofNat_toNat, BitVec.setWidth_eq, Nat.reduceMul]
  have join {start₁ start₂ : Nat} (len₁ len₂ : Nat) (h : start₂ = start₁ + len₁) :=
    BitVec.extractLsb'_append_extractLsb'_eq_extractLsb' (x := r) (len₁ := len₁) (len₂ := len₂) h
  simp (disch := decide) only [join, BitVec.extractLsb'_eq_self]

/-- The fields of a record that was put together are those it was put together from, where each fits its place. -/
theorem opFieldsOf_recordOf {f : OpFields} (kind : f.kind < 2 ^ 8) (width : f.width < 2 ^ 8) (line : f.line < 2 ^ 8)
    (level : f.level < 2 ^ 8) (param : f.param < 2 ^ 32) : opFieldsOf (recordOf f) = f := by
  unfold opFieldsOf recordOf bytesOf
  simp (disch := decide) only [BitVec.extractLsb'_append_eq_of_le, BitVec.extractLsb'_append_eq_of_add_le, Nat.reduceSub,
    Nat.reduceMul, BitVec.extractLsb'_eq_self, BitVec.toNat_ofNat, Nat.mod_eq_of_lt kind, Nat.mod_eq_of_lt width,
    Nat.mod_eq_of_lt line, Nat.mod_eq_of_lt level, Nat.mod_eq_of_lt param]

/-! ## Operation records (R33 to R36, R210) -/

theorem widthOf_eq_some_iff {n : Nat} {w : Width} : widthOf n = some w ↔ n = w.code := by
  unfold widthOf
  split <;> cases w <;> simp_all [Width.code]

theorem levelOf_eq_some_iff {n : Nat} {v : Level} : levelOf n = some v ↔ n = v.code := by
  unfold levelOf
  split <;> cases v <;> simp_all [Level.code]

theorem outLineOf_eq_some_iff {n : Nat} {l : Fin 4} : outLineOf n = some l ↔ n = l.val + 1 := by
  unfold outLineOf
  split <;> fin_cases l <;> simp_all

theorem Width.fit_zero (w : Width) : w.fit 0 = 0 := by cases w <;> rfl

/-- The checks that all accesses share: width, line and level, alignment, data and mask (R33). -/
theorem OpFields.access?_eq_some_iff {f : OpFields} {w : Width} : f.access? = some w ↔
    f.width = w.code ∧ f.line = 0 ∧ f.level = 0 ∧ w.aligned f.addr = true ∧ w.fit f.data = f.data
      ∧ w.fit f.mask = f.mask := by
  unfold OpFields.access?
  cases hw : widthOf f.width with
  | none =>
    refine ⟨nofun, fun ⟨width, _⟩ => ?_⟩
    rw [widthOf_eq_some_iff.2 width] at hw
    cases hw
  | some v =>
    dsimp only
    rw [widthOf_eq_some_iff] at hw
    constructor
    · intro h
      split at h
      · rename_i checks
        cases h
        simpa [OpFields.noLine, OpFields.fits, hw, and_assoc] using checks
      · cases h
    · rintro ⟨width, checks⟩
      obtain rfl : v = w := by
        rw [hw] at width
        cases v <;> cases w <;> first | rfl | cases width
      rw [if_pos]
      simpa [OpFields.noLine, OpFields.fits, and_assoc] using checks

/-- The operation of an access kind: its fields pass the shared checks, and the rest of its own rules hold. -/
theorem OpFields.of_access {f : OpFields} {rest : Width → Prop} {decides : ∀ w, Decidable (rest w)} {make : Width → Op} {o : Op}
    (h : (match f.access? with
      | some w => if rest w then some (make w) else none
      | none => none) = some o) :
    ∃ w, f.access? = some w ∧ rest w ∧ o = make w := by
  cases access : f.access? with
  | none => rw [access] at h; cases h
  | some w =>
    rw [access] at h
    dsimp only at h
    split at h
    · rename_i holds
      cases h
      exact ⟨w, rfl, holds, rfl⟩
    · cases h

/-- An operation that the fields hold keeps its rules, and the fields are its own. -/
theorem OpFields.of_op?_eq_some {f : OpFields} {o : Op} (h : f.op? = some o) : o.valid = true ∧ f = o.fields := by
  obtain ⟨kind, width, line, level, param, addr, data, mask⟩ := f
  unfold OpFields.op? at h
  split at h
  · rename_i write
    obtain ⟨w, access, rest, rfl⟩ := OpFields.of_access h
    obtain ⟨rfl, rfl, rfl, aligned, fits, -⟩ := OpFields.access?_eq_some_iff.1 access
    simp_all [Op.valid, Op.fields]
  · rename_i read
    obtain ⟨w, access, rest, rfl⟩ := OpFields.of_access h
    obtain ⟨rfl, rfl, rfl, aligned, -, -⟩ := OpFields.access?_eq_some_iff.1 access
    simp_all [Op.valid, Op.fields]
  · rename_i maskedWrite
    obtain ⟨w, access, rest, rfl⟩ := OpFields.of_access h
    obtain ⟨rfl, rfl, rfl, aligned, fits, fits'⟩ := OpFields.access?_eq_some_iff.1 access
    simp_all [Op.valid, Op.fields]
  · rename_i poll
    obtain ⟨w, access, rest, rfl⟩ := OpFields.of_access h
    obtain ⟨rfl, rfl, rfl, aligned, fits, fits'⟩ := OpFields.access?_eq_some_iff.1 access
    simp_all [Op.valid, Op.fields]
  · rename_i stamp
    split at h
    · rename_i access
      obtain ⟨rfl, rfl, rfl, aligned, -⟩ := OpFields.access?_eq_some_iff.1 access
      split at h
      · cases h
        simp_all [Op.valid, Op.fields, Width.code]
      · cases h
    · cases h
  · rename_i lineOp
    split at h
    · split at h
      · rename_i l v out high
        obtain rfl : line = l.val + 1 := outLineOf_eq_some_iff.1 out
        obtain rfl : level = v.code := levelOf_eq_some_iff.1 high
        cases h
        simp_all [Op.valid, Op.fields]
      · cases h
    · cases h
  · rename_i waitOp
    split at h
    · cases h
      simp_all [Op.valid, Op.fields, OpFields.noLine]
    · cases h
  · cases h

/-- The fields of an operation that keeps its rules hold it. -/
theorem Op.op?_fields {o : Op} (h : o.valid = true) : o.fields.op? = some o := by
  cases o with
  | write w a d =>
    simp only [Op.valid, Bool.and_eq_true, beq_iff_eq] at h
    have access : (Op.write w a d).fields.access? = some w :=
      OpFields.access?_eq_some_iff.2 ⟨rfl, rfl, rfl, h.1, h.2, w.fit_zero⟩
    unfold OpFields.op?
    rw [access]
    rfl
  | read w a =>
    have access : (Op.read w a).fields.access? = some w :=
      OpFields.access?_eq_some_iff.2 ⟨rfl, rfl, rfl, h, w.fit_zero, w.fit_zero⟩
    unfold OpFields.op?
    rw [access]
    rfl
  | maskedWrite w a d m =>
    simp only [Op.valid, Bool.and_eq_true, beq_iff_eq] at h
    have access : (Op.maskedWrite w a d m).fields.access? = some w :=
      OpFields.access?_eq_some_iff.2 ⟨rfl, rfl, rfl, h.1.1, h.1.2, h.2⟩
    unfold OpFields.op?
    rw [access]
    rfl
  | poll w a d m limit =>
    simp only [Op.valid, Bool.and_eq_true, beq_iff_eq] at h
    obtain ⟨⟨⟨aligned, data⟩, mask⟩, range⟩ := h
    have access : (Op.poll w a d m limit).fields.access? = some w :=
      OpFields.access?_eq_some_iff.2 ⟨rfl, rfl, rfl, aligned, data, mask⟩
    unfold OpFields.op?
    rw [access]
    exact if_pos range
  | stamp a =>
    have access : (Op.stamp a).fields.access? = some .w64 := OpFields.access?_eq_some_iff.2 ⟨rfl, rfl, rfl, h, rfl, rfl⟩
    unfold OpFields.op?
    rw [access]
    rfl
  | line l v =>
    unfold OpFields.op?
    rw [show outLineOf (Op.line l v).fields.line = some l from outLineOf_eq_some_iff.2 rfl,
      show levelOf (Op.line l v).fields.level = some v from levelOf_eq_some_iff.2 rfl]
    rfl
  | wait n => exact if_pos h

theorem OpFields.op?_eq_some_iff {f : OpFields} {o : Op} : f.op? = some o ↔ o.valid = true ∧ f = o.fields :=
  ⟨OpFields.of_op?_eq_some, fun ⟨valid, own⟩ => own ▸ Op.op?_fields valid⟩

/-- The fields of an operation that keeps its rules fit their places in a record. -/
theorem Op.fields_fit {o : Op} (h : o.valid = true) : o.fields.kind < 2 ^ 8 ∧ o.fields.width < 2 ^ 8
    ∧ o.fields.line < 2 ^ 8 ∧ o.fields.level < 2 ^ 8 ∧ o.fields.param < 2 ^ 32 := by
  have width (w : Width) : w.code < 2 ^ 8 := by cases w <;> decide
  cases o with
  | write w a d => have := width w; simp only [Op.fields]; omega
  | read w a => have := width w; simp only [Op.fields]; omega
  | maskedWrite w a d m => have := width w; simp only [Op.fields]; omega
  | poll w a d m limit =>
    have := width w
    have range := of_decide_eq_true (Bool.and_eq_true_iff.1 h).2
    simp only [Config.maxWaitNs] at range
    simp only [Op.fields]
    omega
  | stamp a => simp only [Op.fields]; omega
  | line l v =>
    have level : v.code < 2 ^ 8 := by cases v <;> decide
    simp only [Op.fields]
    omega
  | wait n =>
    have range := of_decide_eq_true h
    simp only [Config.maxWaitNs] at range
    simp only [Op.fields]
    omega

theorem opFieldsOf_encodeOp {o : Op} (h : o.valid = true) : opFieldsOf (encodeOp o) = o.fields := by
  obtain ⟨kind, width, line, level, param⟩ := Op.fields_fit h
  exact opFieldsOf_recordOf kind width line level param

/-- A record holds an operation exactly when it is the record of that operation (R210). -/
theorem opOf_eq_some_iff {r : Record} {o : Op} : opOf r = some o ↔ o.valid = true ∧ r = encodeOp o := by
  rw [opOf, OpFields.op?_eq_some_iff]
  refine and_congr_right fun valid => ⟨fun fields => ?_, fun record => ?_⟩
  · rw [encodeOp, ← fields, recordOf_opFieldsOf]
  · rw [record, opFieldsOf_encodeOp valid]

/-! ## Operation records byte by byte (section 11.2.3) -/

theorem Width.fit_eq_self_iff (w : Width) (x : Word64) : w.fit x = x ↔ (w = .w32 → x.toNat < 2 ^ 32) := by
  cases w with
  | w64 => simp [Width.fit]
  | w32 =>
    have mask : (0xFFFFFFFF : Word64).toNat = 2 ^ 32 - 1 := rfl
    simp only [Width.fit, ← BitVec.toNat_inj, BitVec.toNat_and, mask, Nat.and_two_pow_sub_one_eq_mod, forall_const]
    omega

/-- The bytes of an access record are the fields of its operation with the shared checks (R33). -/
theorem accessRecord_iff {r : Record} {kind : Nat} {w : Width} {a : Addr} {d m : Word64} {param : Nat} :
    AccessRecord r kind w a d m param ↔
      opFieldsOf r = { kind := kind, width := w.code, line := 0, level := 0, param := param, addr := a, data := d,
                       mask := m }
      ∧ w.aligned a = true ∧ w.fit d = d ∧ w.fit m = m := by
  unfold AccessRecord opFieldsOf
  simp only [OpFields.mk.injEq, Width.fit_eq_self_iff, Width.aligned, beq_iff_eq]
  cases w with
  | w32 =>
    simp only [Width.code, Width.bytes, reduceCtorEq, false_and, or_false, true_and, forall_const]
    exact ⟨fun ⟨k, ⟨wd, al, fd, fm⟩, rest⟩ => ⟨⟨k, wd, rest⟩, al, fd, fm⟩,
      fun ⟨⟨k, wd, rest⟩, al, fd, fm⟩ => ⟨k, ⟨wd, al, fd, fm⟩, rest⟩⟩
  | w64 =>
    simp only [Width.code, Width.bytes, reduceCtorEq, false_and, false_or, true_and, false_imp_iff, and_true]
    exact ⟨fun ⟨k, ⟨wd, al⟩, rest⟩ => ⟨⟨k, wd, rest⟩, al⟩, fun ⟨⟨k, wd, rest⟩, al⟩ => ⟨k, ⟨wd, al⟩, rest⟩⟩

/-- The bytes that hold an operation are its fields, with its rules (R33 to R36). -/
theorem recordHolds_iff {r : Record} {o : Op} : RecordHolds r o ↔ o.valid = true ∧ opFieldsOf r = o.fields := by
  have zero (w : Width) : w.fit 0 = 0 := w.fit_zero
  cases o with
  | write w a d =>
    simp only [RecordHolds, accessRecord_iff, Op.valid, Op.fields, Bool.and_eq_true, beq_iff_eq, zero]
    tauto
  | read w a =>
    simp only [RecordHolds, accessRecord_iff, Op.valid, Op.fields, zero]
    tauto
  | maskedWrite w a d m =>
    simp only [RecordHolds, accessRecord_iff, Op.valid, Op.fields, Bool.and_eq_true, beq_iff_eq]
    tauto
  | poll w a d m limit =>
    have range : decide (1000 ≤ limit ∧ limit ≤ Config.maxWaitNs) = true ↔ 1000 ≤ limit ∧ limit ≤ 10 ^ 9 :=
      decide_eq_true_iff
    simp only [RecordHolds, accessRecord_iff, Op.valid, Op.fields, Bool.and_eq_true, beq_iff_eq, range]
    tauto
  | stamp a =>
    simp only [RecordHolds, accessRecord_iff, Op.valid, Op.fields, zero, Width.code]
    tauto
  | line l v =>
    have unused : r.extractLsb' 32 224 = 0 ↔ bytesOf r 4 4 = 0 ∧ r.extractLsb' 64 64 = 0 ∧ r.extractLsb' 128 64 = 0
        ∧ r.extractLsb' 192 64 = 0 := by
      rw [toNat_extractLsb'_eq_zero_iff, extractLsb'_add_eq_zero_iff r 32 32 192, extractLsb'_add_eq_zero_iff r 64 64 128,
        extractLsb'_add_eq_zero_iff r 128 64 64]
    have level : ((v = .low ∧ bytesOf r 3 1 = 1) ∨ (v = .high ∧ bytesOf r 3 1 = 2)) ↔ bytesOf r 3 1 = v.code := by
      cases v with
      | low => simp only [Level.code, reduceCtorEq, false_and, or_false, true_and]
      | high => simp only [Level.code, reduceCtorEq, false_and, false_or, true_and]
    simp only [RecordHolds, unused, level, Op.valid, Op.fields, opFieldsOf, OpFields.mk.injEq, true_and]
  | wait n =>
    have unused : r.extractLsb' 8 24 = 0 ↔ bytesOf r 1 1 = 0 ∧ bytesOf r 2 1 = 0 ∧ bytesOf r 3 1 = 0 := by
      rw [toNat_extractLsb'_eq_zero_iff, toNat_extractLsb'_eq_zero_iff, toNat_extractLsb'_eq_zero_iff,
        extractLsb'_add_eq_zero_iff r 8 8 16, extractLsb'_add_eq_zero_iff r 16 8 8]
    have unused' : r.extractLsb' 64 192 = 0 ↔ r.extractLsb' 64 64 = 0 ∧ r.extractLsb' 128 64 = 0
        ∧ r.extractLsb' 192 64 = 0 := by
      rw [extractLsb'_add_eq_zero_iff r 64 64 128, extractLsb'_add_eq_zero_iff r 128 64 64]
    have range : decide (8 ≤ n ∧ n ≤ Config.maxWaitNs) = true ↔ 8 ≤ n ∧ n ≤ 10 ^ 9 := decide_eq_true_iff
    simp only [RecordHolds, unused, unused', range, Op.valid, Op.fields, opFieldsOf, OpFields.mk.injEq]
    exact ⟨fun ⟨k, ⟨wd, li, le⟩, p, low, high, rest⟩ => ⟨⟨low, high⟩, k, wd, li, le, p, rest⟩,
      fun ⟨⟨low, high⟩, k, wd, li, le, p, rest⟩ => ⟨k, ⟨wd, li, le⟩, p, low, high, rest⟩⟩

/-! ## Completion entries (section 11.3, R211) -/

/-- Each field of a completion entry at its place. -/
theorem Completion.encode_fields (c : Completion) (lap : Bool) (lost : Nat) :
    ((c.encode lap lost).extractLsb' 0 3).toNat = c.kind.code
    ∧ (c.encode lap lost).extractLsb' 3 4 = 0 ∧ (c.encode lap lost).getLsbD 7 = lap
    ∧ bytesOf (c.encode lap lost) 1 1 = c.status.code ∧ bytesOf (c.encode lap lost) 2 1 = c.source % 2 ^ 8
    ∧ (c.encode lap lost).getLsbD 24 = c.late ∧ (c.encode lap lost).getLsbD 25 = c.final
    ∧ (c.encode lap lost).getLsbD 26 = c.cancelled ∧ (c.encode lap lost).getLsbD 27 = decide (lost ≠ 0)
    ∧ ((c.encode lap lost).extractLsb' 28 4).toNat = c.opIndex % 2 ^ 4
    ∧ bytesOf (c.encode lap lost) 4 2 = lost % 2 ^ 16 ∧ bytesOf (c.encode lap lost) 6 2 = c.aux16 % 2 ^ 16
    ∧ (c.encode lap lost).extractLsb' 64 32 = c.tag ∧ bytesOf (c.encode lap lost) 12 4 = c.aux32 % 2 ^ 32
    ∧ bytesOf (c.encode lap lost) 16 8 = c.time % 2 ^ 64 ∧ (c.encode lap lost).extractLsb' 192 64 = c.value := by
  have kind : c.kind.code % 2 ^ 3 = c.kind.code := by cases c.kind <;> rfl
  have status : c.status.code % 2 ^ 8 = c.status.code := by cases c.status <;> rfl
  have lostMark : (lost != 0) = decide (lost ≠ 0) := by
    rw [Bool.eq_iff_iff, bne_iff_ne, decide_eq_true_iff]
  have mark (b : Bool) : (BitVec.ofBool b == 1#1) = b := by cases b <;> rfl
  simp only [BitVec.getLsbD_eq_extractLsb']
  refine ⟨?_, ?_, ?_, ?_, ?_, ?_, ?_, ?_, ?_, ?_, ?_, ?_, ?_, ?_, ?_, ?_⟩
  all_goals
    unfold Completion.encode
    simp (disch := decide) only [bytesOf, bit, BitVec.extractLsb'_append_eq_of_le,
      BitVec.extractLsb'_append_eq_of_add_le, Nat.reduceSub, Nat.reduceMul, BitVec.extractLsb'_eq_self,
      BitVec.toNat_ofNat, kind, status, lostMark, mark]

/-! ## Codes and packed values (section 11.5, R211) -/

theorem Status.isFault_iff (st : Status) : st.isFault = true ↔ 0x20 ≤ st.code ∧ st.code ≤ 0x24 := by
  cases st <;> decide

theorem windowCode_some (w : Window) : windowCode (some w) = if w.kind = .grant then 1 else 2 := by
  unfold windowCode
  cases hk : w.kind <;> simp [hk]

theorem toNat_packValue_16 (low high : Nat) :
    (packValue low 16 high).toNat = (low % 65536 + high * 65536) % 18446744073709551616 := BitVec.toNat_ofNat _ _

theorem packValue_16 (low high : Nat) : (packValue low 16 high).extractLsb' 0 16 = BitVec.ofNat 16 low
    ∧ (packValue low 16 high).extractLsb' 16 48 = BitVec.ofNat 48 high := by
  constructor
  · apply BitVec.eq_of_toNat_eq
    rw [BitVec.extractLsb'_toNat, toNat_packValue_16, Nat.shiftRight_zero, BitVec.toNat_ofNat]
    omega
  · apply BitVec.eq_of_toNat_eq
    rw [BitVec.extractLsb'_toNat, toNat_packValue_16, Nat.shiftRight_eq_div_pow, BitVec.toNat_ofNat]
    omega

theorem toNat_packValue_32 (low high : Nat) :
    (packValue low 32 high).toNat = (low % 4294967296 + high * 4294967296) % 18446744073709551616 := BitVec.toNat_ofNat _ _

theorem packValue_32 (low high : Nat) : (packValue low 32 high).extractLsb' 0 32 = BitVec.ofNat 32 low
    ∧ (packValue low 32 high).extractLsb' 32 32 = BitVec.ofNat 32 high := by
  constructor
  · apply BitVec.eq_of_toNat_eq
    rw [BitVec.extractLsb'_toNat, toNat_packValue_32, Nat.shiftRight_zero, BitVec.toNat_ofNat]
    omega
  · apply BitVec.eq_of_toNat_eq
    rw [BitVec.extractLsb'_toNat, toNat_packValue_32, Nat.shiftRight_eq_div_pow, BitVec.toNat_ofNat]
    omega

theorem slewData_fields (rate : Int) (ms : Nat) : (slewData rate ms).extractLsb' 0 32 = BitVec.ofInt 32 rate
    ∧ (slewData rate ms).extractLsb' 32 16 = BitVec.ofNat 16 ms ∧ (slewData rate ms).extractLsb' 48 16 = 0 := by
  unfold slewData
  simp (disch := decide) only [BitVec.extractLsb'_append_eq_of_le, BitVec.extractLsb'_append_eq_of_add_le, Nat.reduceSub,
    BitVec.extractLsb'_eq_self, and_self]

/-- Settles O15. -/
theorem operationRecordsRoundTrip : Obligations.OperationRecordsRoundTrip := by
  refine ⟨fun r o => opOf_eq_some_iff, fun r o => ?holds, fun c lap lost r record => ?entry, ?codes,
    packValue_16, packValue_32, slewData_fields⟩
  case holds => rw [recordHolds_iff, opOf, OpFields.op?_eq_some_iff]
  case entry =>
    subst record
    obtain ⟨kind, rest⟩ := c.encode_fields lap lost
    refine ⟨kind.trans ?_, rest⟩
    cases c.kind <;> rfl
  case codes =>
    exact ⟨rfl, rfl, rfl, Status.isFault_iff, rfl, rfl, rfl, rfl, rfl, rfl, windowCode_some⟩

end Sys2Proof.Machine

/-! The checks of an ARM (R20 to R39): its fields, its records, and the permissions of its operations. -/

namespace Sys2Proof.Machine

open Sys2Proof

/-! ## Codes -/

theorem dueModeOf_eq_some_iff {n : Nat} {m : DueMode} : dueModeOf n = some m ↔
    (n = 1 ∧ m = .absolute) ∨ (n = 2 ∧ m = .relative) ∨ (n = 3 ∧ m = .aligned) := by
  unfold dueModeOf
  split <;> cases m <;> simp_all

theorem latePolicyOf_eq_some_iff {n : Nat} {p : LatePolicy} : latePolicyOf n = some p ↔
    (n = 1 ∧ p = .fire) ∨ (n = 2 ∧ p = .skip) ∨ (n = 3 ∧ p = .abort) := by
  unfold latePolicyOf
  split <;> cases p <;> simp_all

theorem faultPolicyOf_eq_some_iff {n : Nat} {p : FaultPolicy} : faultPolicyOf n = some p ↔
    (n = 1 ∧ p = .endAction) ∨ (n = 2 ∧ p = .continueAction) := by
  unfold faultPolicyOf
  split <;> cases p <;> simp_all

theorem completionModeOf_eq_some_iff {n : Nat} {m : CompletionMode} : completionModeOf n = some m ↔
    (n = 1 ∧ m = .every) ∨ (n = 2 ∧ m = .finalAndFaults) := by
  unfold completionModeOf
  split <;> cases m <;> simp_all

theorem edgeSelectOf_eq_some_iff {n : Nat} {k : EdgeSelect} : edgeSelectOf n = some k ↔
    (n = 1 ∧ k = .rise) ∨ (n = 2 ∧ k = .fall) ∨ (n = 3 ∧ k = .either) := by
  unfold edgeSelectOf
  split <;> cases k <;> simp_all

theorem closePolicyOf_eq_some_iff {n : Nat} {p : ClosePolicy} : closePolicyOf n = some p ↔
    (n = 1 ∧ p = .fail) ∨ (n = 2 ∧ p = .fireAtClose) := by
  unfold closePolicyOf
  split <;> cases p <;> simp_all

/-! ## The fields of an ARM entry (R20 to R32) -/

theorem ArmFields.mode?_eq_some_iff {f : ArmFields} {m : DueMode} : f.mode? = some m ↔
    (f.dueMode = 1 ∧ m = .absolute) ∨ (f.dueMode = 2 ∧ m = .relative)
      ∨ (f.dueMode = 3 ∧ m = .aligned ∧ f.dueValue < f.period) := by
  have mode := dueModeOf_eq_some_iff (n := f.dueMode) (m := m)
  unfold ArmFields.mode?
  split
  · rename_i aligned
    have code : f.dueMode = 3 := by simpa using dueModeOf_eq_some_iff.1 aligned
    split
    · rename_i phase
      simp only [Bool.and_eq_true, bne_iff_ne, decide_eq_true_iff] at phase
      simp [code, phase.2, eq_comm]
    · rename_i phase
      simp only [Bool.and_eq_true, bne_iff_ne, decide_eq_true_iff] at phase
      have : ¬ f.dueValue < f.period := fun h => phase ⟨by omega, h⟩
      simp [code, this]
  · rename_i other
    have code : f.dueMode ≠ 3 := fun h => other (dueModeOf_eq_some_iff.2 (.inr (.inr ⟨h, rfl⟩)))
    simp only [mode, code, false_and, or_false]

theorem ArmFields.gate?_eq_some_iff {f : ArmFields} {g : Option GateParams} : f.gate? = some g ↔
    (f.gated = 0 ∧ g = none ∧ f.gateLine = 0 ∧ f.gateEdge = 0 ∧ f.closePolicy = 0 ∧ f.delay = 0 ∧ f.listen = 0)
    ∨ (f.gated = 1 ∧ f.period = 0 ∧ ∃ x, g = some x ∧ f.gateLine = x.line.val
        ∧ edgeSelectOf f.gateEdge = some x.edge ∧ closePolicyOf f.closePolicy = some x.closePolicy
        ∧ x.delay = f.delay ∧ x.listen = f.listen ∧ 1 ≤ x.listen ∧ x.listen ≤ 2 ^ 40) := by
  unfold ArmFields.gate?
  split
  case h_1 ungated =>
    split
    · rename_i zeros
      simp only [Bool.and_eq_true, beq_iff_eq] at zeros
      simp [ungated, zeros, eq_comm]
    · rename_i zeros
      simp only [Bool.and_eq_true, beq_iff_eq] at zeros
      constructor
      · nofun
      · rintro (⟨-, -, l, k, c, d, n⟩ | ⟨gated, -⟩)
        · exact absurd ⟨⟨⟨⟨l, k⟩, c⟩, d⟩, n⟩ zeros
        · omega
  case h_2 gated =>
    constructor
    · intro h
      split at h
      · rename_i l k c line edge close
        split at h
        · rename_i range
          obtain ⟨listen, period⟩ := Bool.and_eq_true_iff.1 range
          cases h
          exact .inr ⟨gated, beq_iff_eq.1 period, _, rfl, finOf_eq_some_iff.1 line, edge, close, rfl, rfl,
            of_decide_eq_true listen⟩
        · cases h
      · cases h
    · rintro (⟨ungated, -⟩ | ⟨-, period, ⟨l, k, c, d, n⟩, rfl, line, edge, close, delay, listen, low, high⟩)
      · omega
      · simp only at line edge close delay listen low high
        subst delay listen
        rw [finOf_eq_some_iff.2 line, edge, close]
        exact if_pos (Bool.and_eq_true_iff.2 ⟨decide_eq_true ⟨low, high⟩, beq_iff_eq.2 period⟩)
  case h_3 ungated gated =>
    constructor
    · nofun
    · rintro (⟨h, -⟩ | ⟨h, -⟩)
      · exact absurd h ungated
      · exact absurd h gated

theorem ArmFields.listShapeOk_iff {f : ArmFields} : f.listShapeOk = true ↔
    (f.opCount = 1 ∧ f.listAddr = 0 ∧ f.inline2 = 0) ∨ (f.opCount = 2 ∧ f.listAddr = 0)
    ∨ (3 ≤ f.opCount ∧ f.opCount ≤ 8 ∧ f.listAddr.toNat % 32 = 0 ∧ f.inline1 = 0 ∧ f.inline2 = 0) := by
  unfold ArmFields.listShapeOk
  split
  · rename_i one
    simp [one]
  · rename_i two
    simp [two]
  · rename_i one two
    have one : ¬ f.opCount = 1 := one
    have two : ¬ f.opCount = 2 := two
    simp only [Bool.and_eq_true, beq_iff_eq, decide_eq_true_iff, one, two, false_and, false_or, and_assoc]

theorem periodOk_iff (n : Nat) : periodOk n = true ↔ n = 0 ∨ (1000 ≤ n ∧ n ≤ 2 ^ 48) := by
  simp only [periodOk, Bool.or_eq_true, beq_iff_eq, decide_eq_true_iff]
  rfl

theorem ArmFields.params?_eq_some_iff {f : ArmFields} {p : ArmParams} : f.params? = some p ↔
    f.mode? = some p.mode ∧ latePolicyOf f.latePolicy = some p.latePolicy
    ∧ faultPolicyOf f.faultPolicy = some p.faultPolicy ∧ completionModeOf f.completionMode = some p.completionMode
    ∧ f.gate? = some p.gate ∧ periodOk f.period = true ∧ f.listShapeOk = true := by
  unfold ArmFields.params?
  constructor
  · intro h
    split at h
    · rename_i mode late fault completion gate
      split at h
      · rename_i rest
        cases h
        exact ⟨mode, late, fault, completion, gate, Bool.and_eq_true_iff.1 rest⟩
      · cases h
    · cases h
  · rintro ⟨mode, late, fault, completion, gate, period, list⟩
    rw [mode, late, fault, completion, gate]
    simp [period, list]

/-- The unused gate bytes of an ungated ARM, field by field. -/
theorem gateBytes_eq_zero_iff (e : Entry) : e.extractLsb' 328 120 = 0 ↔
    bytesOf e 41 1 = 0 ∧ bytesOf e 42 1 = 0 ∧ bytesOf e 43 1 = 0 ∧ bytesOf e 44 4 = 0 ∧ bytesOf e 48 8 = 0 := by
  rw [toNat_extractLsb'_eq_zero_iff, toNat_extractLsb'_eq_zero_iff, toNat_extractLsb'_eq_zero_iff,
    toNat_extractLsb'_eq_zero_iff, toNat_extractLsb'_eq_zero_iff, extractLsb'_add_eq_zero_iff e 328 8 112,
    extractLsb'_add_eq_zero_iff e 336 8 104, extractLsb'_add_eq_zero_iff e 344 8 96,
    extractLsb'_add_eq_zero_iff e 352 32 64]

/-- Step 2 of R37 in the words of section 11.2.2. -/
theorem armParams_iff (e : Entry) (p : ArmParams) : (armFieldsOf e).params? = some p ↔ ArmFieldsHold e p := by
  have inline : e.extractLsb' 512 512 = 0 ↔ e.extractLsb' 512 256 = 0 ∧ e.extractLsb' 768 256 = 0 :=
    extractLsb'_add_eq_zero_iff e 512 256 256
  have address : bytesOf e 32 8 = 0 ↔ e.extractLsb' 256 64 = 0 := toNat_extractLsb'_eq_zero_iff e _ _
  rw [ArmFields.params?_eq_some_iff, ArmFields.mode?_eq_some_iff, latePolicyOf_eq_some_iff, faultPolicyOf_eq_some_iff,
    completionModeOf_eq_some_iff, ArmFields.gate?_eq_some_iff, periodOk_iff, ArmFields.listShapeOk_iff]
  simp only [edgeSelectOf_eq_some_iff, closePolicyOf_eq_some_iff, ArmFieldsHold, gateBytes_eq_zero_iff, inline, address]
  show _ ∧ _ ∧ _ ∧ _ ∧ _ ∧ _ ∧ _ ↔ _
  constructor
  · rintro ⟨mode, late, fault, completion, gate, period, list⟩
    exact ⟨mode, late, fault, completion, period, gate, list⟩
  · rintro ⟨mode, late, fault, completion, period, gate, list⟩
    exact ⟨mode, late, fault, completion, gate, period, list⟩

/-! ## The records of an ARM (R33 to R39) -/

/-- All records hold operations, and these are the operations. -/
theorem readRecords_eq_ok_iff {records : List Record} : ∀ {i : Nat} {ops : List Op},
    readRecords i records = .ok ops ↔ records.map opOf = ops.map some := by
  induction records with
  | nil =>
    intro i ops
    cases ops <;> simp [readRecords]
  | cons r rest ih =>
    intro i ops
    rw [readRecords]
    cases hr : opOf r with
    | none => cases ops <;> simp [hr]
    | some o =>
      dsimp only
      cases ops with
      | nil =>
        split <;> simp
      | cons y ys =>
        simp only [List.map_cons, hr, List.cons.injEq, Option.some.injEq, ← ih (i := i + 1)]
        split
        · rename_i failed
          simp [failed]
        · rename_i read
          simp [read]

/-- The first record that holds no operation, counted from `i`. -/
theorem readRecords_eq_error_iff {records : List Record} : ∀ {i j : Nat}, readRecords i records = .error j ↔
    ∃ k r, j = i + k ∧ records[k]? = some r ∧ opOf r = none
      ∧ ∀ m < k, ∀ y, records[m]? = some y → (opOf y).isSome = true := by
  induction records with
  | nil => simp [readRecords]
  | cons r rest ih =>
    intro i j
    rw [readRecords]
    cases hr : opOf r with
    | none =>
      constructor
      · intro h
        cases h
        exact ⟨0, r, rfl, rfl, hr, nofun⟩
      · rintro ⟨k, x, rfl, -, -, before⟩
        cases k with
        | zero => rfl
        | succ k => have := before 0 k.succ_pos r rfl; rw [hr] at this; cases this
    | some o =>
      have later : (match readRecords (i + 1) rest with
          | .error j => (Except.error j : Except Nat (List Op))
          | .ok os => .ok (o :: os)) = .error j ↔ readRecords (i + 1) rest = .error j := by
        cases readRecords (i + 1) rest <;> simp
      refine later.trans (ih.trans ⟨?_, ?_⟩)
      · rintro ⟨k, x, rfl, at_k, no_op, before⟩
        refine ⟨k + 1, x, by omega, at_k, no_op, fun m hm y hy => ?_⟩
        cases m with
        | zero => cases hy; rw [hr]; rfl
        | succ m => exact before m (by omega) y hy
      · rintro ⟨k, x, rfl, at_k, no_op, before⟩
        cases k with
        | zero => cases at_k; rw [hr] at no_op; cases no_op
        | succ k => exact ⟨k, x, by omega, at_k, no_op, fun m hm y hy => before (m + 1) (by omega) y hy⟩

theorem denial_cases {P Q : Prop} {decides : Decidable P} (h : P ↔ Q) (st : Status) :
    (Q ∧ (if P then none else some st) = none) ∨ (¬ Q ∧ (if P then none else some st) = some st) := by
  by_cases holds : P
  · exact .inl ⟨h.1 holds, if_pos holds⟩
  · exact .inr ⟨mt h.2 holds, if_neg holds⟩

/-- What is against an operation at arm time: nothing, or the status of its kind (R38). -/
theorem State.opDenied_cases (s : State) (tenant : Nat) (o : Op) :
    (OpAllowed s tenant o ∧ s.opDenied tenant o = none)
    ∨ (¬ OpAllowed s tenant o ∧ s.opDenied tenant o = some (deniedStatus o)) := by
  cases o with
  | write w a d => exact denial_cases (by exact Iff.rfl) _
  | read w a => exact denial_cases (by exact Iff.rfl) _
  | maskedWrite w a d m => exact denial_cases Bool.and_eq_true_iff _
  | poll w a d m limit => exact denial_cases (by exact Iff.rfl) _
  | stamp a => exact denial_cases (by exact Iff.rfl) _
  | line l v => exact denial_cases (by exact Iff.rfl) _
  | wait n => exact .inl ⟨trivial, rfl⟩

theorem State.firstDenied_eq_none_iff {s : State} {tenant : Nat} {ops : List Op} : ∀ {i : Nat},
    s.firstDenied tenant i ops = none ↔ ∀ o ∈ ops, OpAllowed s tenant o := by
  induction ops with
  | nil => simp [State.firstDenied]
  | cons o rest ih =>
    intro i
    rw [State.firstDenied, List.forall_mem_cons, ← ih (i := i + 1)]
    rcases s.opDenied_cases tenant o with ⟨allowed, verdict⟩ | ⟨denied, verdict⟩
    · simp [verdict, allowed]
    · simp [verdict, denied]

/-- The first operation that is not permitted, counted from `i`. -/
theorem State.firstDenied_eq_some_iff {s : State} {tenant : Nat} {ops : List Op} {st : Status} : ∀ {i j : Nat},
    s.firstDenied tenant i ops = some (st, j) ↔
      ∃ k o, j = i + k ∧ ops[k]? = some o ∧ ¬ OpAllowed s tenant o ∧ st = deniedStatus o
        ∧ ∀ m < k, ∀ y, ops[m]? = some y → OpAllowed s tenant y := by
  induction ops with
  | nil => simp [State.firstDenied]
  | cons o rest ih =>
    intro i j
    rw [State.firstDenied]
    rcases s.opDenied_cases tenant o with ⟨allowed, verdict⟩ | ⟨denied, verdict⟩
    · rw [verdict]
      refine ih.trans ⟨?_, ?_⟩
      · rintro ⟨k, x, rfl, at_k, denied, status, before⟩
        refine ⟨k + 1, x, by omega, at_k, denied, status, fun m hm y hy => ?_⟩
        cases m with
        | zero => cases hy; exact allowed
        | succ m => exact before m (by omega) y hy
      · rintro ⟨k, x, rfl, at_k, denied, status, before⟩
        cases k with
        | zero => cases at_k; exact absurd allowed denied
        | succ k => exact ⟨k, x, by omega, at_k, denied, status, fun m hm y hy => before (m + 1) (by omega) y hy⟩
    · rw [verdict]
      constructor
      · intro h
        cases h
        exact ⟨0, o, rfl, rfl, denied, rfl, nofun⟩
      · rintro ⟨k, x, rfl, at_k, -, rfl, before⟩
        cases k with
        | zero => cases at_k; rfl
        | succ k => exact absurd (before 0 k.succ_pos o rfl) denied

theorem deniedStatus_ne_badField (o : Op) : deniedStatus o ≠ .badField := by cases o <;> nofun

/-- Steps 4 and 5 of R37: first the shapes of all records, then the permissions of the operations. -/
theorem State.checkRecords_eq_ok_iff {s : State} {tenant : Nat} {records : List Record} {ops : List Op} :
    s.checkRecords tenant records = .ok ops ↔ readRecords 1 records = .ok ops ∧ s.firstDenied tenant 1 ops = none := by
  unfold State.checkRecords
  cases readRecords 1 records with
  | error i => simp
  | ok os =>
    dsimp only
    cases denied : s.firstDenied tenant 1 os with
    | none =>
      simp only [Except.ok.injEq]
      exact ⟨fun h => ⟨h, h ▸ denied⟩, fun h => h.1⟩
    | some x =>
      simp only [reduceCtorEq, Except.ok.injEq, false_iff, not_and]
      rintro rfl
      rw [denied]
      nofun

theorem State.checkRecords_eq_error_iff {s : State} {tenant : Nat} {records : List Record} {st : Status} {i : Nat} :
    s.checkRecords tenant records = .error (st, i) ↔
      (st = .badField ∧ readRecords 1 records = .error i)
      ∨ ∃ ops, readRecords 1 records = .ok ops ∧ s.firstDenied tenant 1 ops = some (st, i) := by
  unfold State.checkRecords
  cases readRecords 1 records with
  | error j => simp [eq_comm]
  | ok os =>
    dsimp only
    cases denied : s.firstDenied tenant 1 os with
    | none => simp [denied]
    | some x => simp [denied]

theorem checkRecords_badField_iff {s : State} {tenant : Nat} {records : List Record} {i : Nat} :
    s.checkRecords tenant records = .error (.badField, i) ↔
      ∃ k r, i = k + 1 ∧ records[k]? = some r ∧ opOf r = none
        ∧ ∀ j < k, ∀ y, records[j]? = some y → (opOf y).isSome = true := by
  rw [State.checkRecords_eq_error_iff, readRecords_eq_error_iff]
  constructor
  · rintro (⟨-, k, r, rfl, rest⟩ | ⟨ops, -, denied⟩)
    · exact ⟨k, r, Nat.add_comm 1 k, rest⟩
    · obtain ⟨k, o, -, -, -, status, -⟩ := State.firstDenied_eq_some_iff.1 denied
      exact absurd status.symm (deniedStatus_ne_badField o)
  · rintro ⟨k, r, rfl, rest⟩
    exact .inl ⟨rfl, k, r, Nat.add_comm k 1, rest⟩

theorem checkRecords_denied_iff {s : State} {tenant : Nat} {records : List Record} {st : Status} {i : Nat}
    (h : st ≠ .badField) : s.checkRecords tenant records = .error (st, i) ↔
      ∃ (ops : List Op) (k : Nat) (o : Op), records.map opOf = ops.map some ∧ i = k + 1 ∧ ops[k]? = some o
        ∧ ¬ OpAllowed s tenant o ∧ st = deniedStatus o ∧ ∀ j < k, ∀ y, ops[j]? = some y → OpAllowed s tenant y := by
  rw [State.checkRecords_eq_error_iff]
  simp only [h, false_and, false_or, readRecords_eq_ok_iff, State.firstDenied_eq_some_iff]
  constructor
  · rintro ⟨ops, read, k, o, rfl, rest⟩
    exact ⟨ops, k, o, read, Nat.add_comm 1 k, rest⟩
  · rintro ⟨ops, k, o, read, rfl, rest⟩
    exact ⟨ops, read, k, o, Nat.add_comm k 1, rest⟩

end Sys2Proof.Machine

/-! ARM and the end of its list fetch (R49 to R53): where an accepted action goes, and how a refusal is answered. -/

namespace Sys2Proof.Machine

open Sys2Proof

/-! ## Entering the schedule and the calendar (R48, R65, R66, R122) -/

/-- An insertion leaves the entries that stood there in their order. -/
theorem sublist_insertTimed (x : TimedEntry) (l : List TimedEntry) : l.Sublist (insertTimed x l) := by
  induction l with
  | nil => exact List.nil_sublist _
  | cons y rest ih =>
    rw [insertTimed]
    split
    · exact List.sublist_cons_self _ _
    · exact ih.cons_cons y

/-! ## The verdict on an ARM (R37, R49) -/

section verdict

variable {s : State} {r : Fin 16} {e : Entry} {p : ArmParams} {due : Nat} {ops : List Op}

theorem State.armVerdict_of_deleting (h : (s.sq r).state = .deleting) : s.armVerdict r e = .refuse .wrongState 0 :=
  if_pos h

theorem State.armVerdict_of_unset (ring : (s.sq r).state ≠ .deleting) (unset : s.tb.state = .unset) :
    s.armVerdict r e = .refuse .timebaseUnset 0 := by
  unfold State.armVerdict
  dsimp only
  rw [if_neg ring, if_pos unset]

theorem State.armVerdict_of_badField (ring : (s.sq r).state ≠ .deleting) (running : s.tb.state = .running)
    (params : (armFieldsOf e).params? = none) : s.armVerdict r e = .refuse .badField 0 := by
  unfold State.armVerdict
  dsimp only
  rw [if_neg ring, if_neg (TimebaseState.ne_unset_of_running running), params]

/-- From step 3 of R37 on: the times and the records decide. -/
theorem State.armVerdict_of_times_error {st : Status} {i : Nat} (ring : (s.sq r).state ≠ .deleting)
    (running : s.tb.state = .running) (params : (armFieldsOf e).params? = some p)
    (times : s.armTimes (s.sq r).tenant (armFieldsOf e) p = .error (st, i)) : s.armVerdict r e = .refuse st i := by
  unfold State.armVerdict
  dsimp only
  rw [if_neg ring, if_neg (TimebaseState.ne_unset_of_running running), params]
  dsimp only
  rw [times]

/-- From the tag on: the tag, the quota and the store decide. -/
theorem State.armVerdict_of_times_ok (ring : (s.sq r).state ≠ .deleting)
    (running : s.tb.state = .running) (params : (armFieldsOf e).params? = some p)
    (times : s.armTimes (s.sq r).tenant (armFieldsOf e) p = .ok (due, ops)) :
    s.armVerdict r e =
      if (s.tagLookup r (armFieldsOf e).tag).isSome then .refuse .duplicateTag 0
      else if s.quota (s.sq r).tenant ≤ s.holdings (s.sq r).tenant then .refuse .quotaExceeded 0
      else if Config.slotCount ≤ s.ast.slots.length then .refuse .storeFull 0
      else .accept (newSlot (armFieldsOf e) p r (s.sq r).tenant due ops) := by
  unfold State.armVerdict
  dsimp only
  rw [if_neg ring, if_neg (TimebaseState.ne_unset_of_running running), params]
  dsimp only
  rw [times]

theorem State.armTimes_of_no_due {tenant : Nat} {f : ArmFields}
    (none_valid : firstDue? p.mode f.dueValue f.period s.now s.dsp.lead = none) :
    s.armTimes tenant f p = .error (.badTime, 0) := by
  unfold State.armTimes
  rw [none_valid]

theorem State.armTimes_of_gate {tenant : Nat} {f : ArmFields}
    (first : firstDue? p.mode f.dueValue f.period s.now s.dsp.lead = some due) (gate : p.gate.all (gateTimesOk due) = false) :
    s.armTimes tenant f p = .error (.badTime, 0) := by
  unfold State.armTimes
  rw [first]
  exact if_neg (Bool.eq_false_iff.1 gate)

theorem State.armTimes_of_records_error {tenant : Nat} {f : ArmFields} {st : Status} {i : Nat}
    (first : firstDue? p.mode f.dueValue f.period s.now s.dsp.lead = some due) (gate : p.gate.all (gateTimesOk due) = true)
    (records : s.checkRecords tenant f.inlineRecords = .error (st, i)) :
    s.armTimes tenant f p = .error (st, i) := by
  unfold State.armTimes
  rw [first]
  dsimp only
  rw [if_pos gate, records]

theorem State.armTimes_of_records_ok {tenant : Nat} {f : ArmFields}
    (first : firstDue? p.mode f.dueValue f.period s.now s.dsp.lead = some due) (gate : p.gate.all (gateTimesOk due) = true)
    (records : s.checkRecords tenant f.inlineRecords = .ok ops) : s.armTimes tenant f p = .ok (due, ops) := by
  unfold State.armTimes
  rw [first]
  dsimp only
  rw [if_pos gate, records]

end verdict

/-- The gate times are in range exactly when close time and close time plus delay are (R31). -/
theorem gateTimesOk_iff (due : Nat) (g : GateParams) :
    gateTimesOk due g = true ↔ due + g.listen ≤ 2 ^ 63 - 1 ∧ due + g.listen + g.delay ≤ 2 ^ 63 - 1 :=
  decide_eq_true_iff

/-! ## The answer to an ARM (R40, R49, R50, R53) -/

theorem exec_arm_refused {s : State} {c : Fin 8} {r : Fin 16} {e : Entry} {st : Status} {i : Nat}
    (h : s.requestOf c .arm = some (r, e)) (verdict : s.armVerdict r e = .refuse st i) :
    exec (.arm c) s = .next (s.completeRequest c r (armRefused st i (armFieldsOf e).tag s.now)) := by
  show execArm c s = _
  rw [execArm, h]
  dsimp only
  rw [verdict]

/-- The slot that an accepted ARM takes: the lowest FREE one (R41). -/
def State.freshSlot (s : State) : Nat := lowestFree 0 s.ast.slots

theorem exec_arm_pending {s : State} {c : Fin 8} {r : Fin 16} {e : Entry} {x : Slot}
    (h : s.requestOf c .arm = some (r, e)) (verdict : s.armVerdict r e = .accept x) (pending : x.state = .pending) :
    exec (.arm c) s = .next (s.beginListFetch c e s.freshSlot x) := by
  show execArm c s = _
  rw [execArm, h]
  dsimp only
  rw [verdict]
  dsimp only
  rw [if_pos pending]
  rfl

theorem exec_arm_placed {s : State} {c : Fin 8} {r : Fin 16} {e : Entry} {x : Slot}
    (h : s.requestOf c .arm = some (r, e)) (verdict : s.armVerdict r e = .accept x) (inline : x.state ≠ .pending) :
    exec (.arm c) s = .next ((s.placeAction s.freshSlot x).completeRequest c r (armAccepted x s.now)) := by
  show execArm c s = _
  rw [execArm, h]
  dsimp only
  rw [verdict]
  dsimp only
  rw [if_neg inline]
  rfl

theorem State.placeAction_of_ungated (s : State) (id : Nat) {x : Slot} (h : x.gate = none) :
    s.placeAction id x = s.enterSchedule id x x.due := by
  unfold State.placeAction
  rw [h]

theorem State.placeAction_of_gated (s : State) (id : Nat) {x : Slot} {g : Gate} (h : x.gate = some g) :
    s.placeAction id x = s.enterCalendar id x .awaiting g.openTime := by
  unfold State.placeAction
  rw [h]

theorem placedCode_of_ungated {x : Slot} (h : x.gate = none) : placedCode x = 2 := by
  rw [placedCode, h]
  rfl

theorem placedCode_of_gated {x : Slot} {g : Gate} (h : x.gate = some g) : placedCode x = 3 := by
  rw [placedCode, h]
  rfl

/-- In a store that keeps its law and has a FREE slot, the lowest FREE number is below 1024. -/
theorem StoreLaw.freshSlot {s : State} (law : StoreLaw s) (room : s.ast.slots.length < 1024) :
    s.freshSlot < 1024 ∧ s.slot? s.freshSlot = none := by
  obtain ⟨-, bound, free⟩ := lowestFree_spec s.ast.slots 0 law.1 (fun _ _ => Nat.zero_le _)
  refine ⟨by unfold State.freshSlot; omega, ?_⟩
  cases found : s.slot? s.freshSlot with
  | none => rfl
  | some x => exact absurd rfl (free _ (slotGet_mem found))

theorem TenantWaits.not_deleting {s : State} {c : Fin 8} {k : ReqKind} {r : Fin 16} {e : Entry}
    (h : TenantWaits s c k r e) : (s.sq r).state ≠ .deleting := by
  obtain ⟨-, -, -, state | state, -⟩ := h
  · rw [state]; decide
  · rw [state]; decide

/-- What the beginning of a list fetch leaves (R50, R51): the PENDING slot, the context that fetches, and the read on the
link while the bus master enable is set. -/
theorem State.beginListFetch_effect (s : State) (c : Fin 8) (e : Entry) (id : Nat) (x : Slot) :
    ∃ u : State, s.beginListFetch c e id x = u ∧ u.slot? id = some x ∧ (∀ k ≠ id, u.slot? k = s.slot? k)
      ∧ u.rqe = { s.rqe with
          ctxs := s.rqe.ctxs.set c ((s.ctx c).withProgress (.listFetch id s.tb.value 0 s.hp.busMaster)) }
      ∧ u.ast.quotas = s.ast.quotas ∧ u.ast.seq = s.ast.seq ∧ u.cu = s.cu ∧ u.dsp = s.dsp ∧ u.lnu = s.lnu
      ∧ u.tb = s.tb ∧ u.wtb = s.wtb
      ∧ u.hp = (if s.hp.busMaster then
          { s.hp with bus := s.hp.bus ++
            [BusTxn.listRead c (armFieldsOf e).listAddr (32 * (armFieldsOf e).opCount)] } else s.hp) := by
  refine ⟨_, rfl, ?_⟩
  unfold State.beginListFetch State.placeIfMaster
  dsimp only
  split
  · rename_i master
    rw [if_pos (by exact master)]
    exact ⟨slotGet_slotPut_self _ _ _, fun k hk => slotGet_slotPut_of_ne _ _ hk, rfl, rfl, rfl, rfl, rfl, rfl, rfl, rfl,
      rfl⟩
  · rename_i master
    rw [if_neg (by exact master)]
    exact ⟨slotGet_slotPut_self _ _ _, fun k hk => slotGet_slotPut_of_ne _ _ hk, rfl, rfl, rfl, rfl, rfl, rfl, rfl, rfl,
      rfl⟩

/-! ### The state of the new slot (R50) -/

theorem armState_of_list {n : Nat} (g : Option GateParams) (h : 3 ≤ n) : armState n g = .pending := if_pos h

theorem armState_of_inline {n : Nat} (g : Option GateParams) (h : n < 3) : armState n g ≠ .pending := by
  rw [armState, if_neg (Nat.not_le.2 h)]
  split <;> nofun

/-- Settles O16. -/
theorem armTakesASlot : Obligations.ArmTakesASlot := by
  refine ⟨?accepted, fun _ _ _ _ _ _ => rfl, fun e => ⟨rfl, rfl, rfl, rfl, rfl, ?inline⟩, fun bytes n => ?list,
    ?schedule, ?calendar⟩
  case accepted =>
    intro s c r e p due ops waits law running params first gate records tag quota room
    have gateOk : p.gate.all (gateTimesOk due) = true := by
      rw [Option.all_eq_true]
      exact fun g hg => (gateTimesOk_iff due g).2 (gate g hg)
    have verdict := State.armVerdict_of_times_ok waits.not_deleting running params
      (State.armTimes_of_records_ok first gateOk records)
    rw [tag, if_neg (by decide), if_neg (Nat.not_le.2 quota), if_neg (by exact Nat.not_le.2 room)] at verdict
    obtain ⟨below, free⟩ := law.freshSlot room
    obtain ⟨t, run, -⟩ := commandsKeepTheQueue (.arm c) s
    refine ⟨t, s.freshSlot, run, below, free, fun few ungated => ?_, fun few gated => ?_, fun many => ?_⟩
    · obtain rfl := next_unique run (exec_arm_placed waits.requestOf verdict (armState_of_inline _ few))
      have noGate : (newSlot (armFieldsOf e) p r (s.sq r).tenant due ops).gate = none := by
        show p.gate.map _ = none
        rw [ungated]
        rfl
      rw [armAccepted, placedCode_of_ungated noGate, State.placeAction_of_ungated s _ noGate]
      exact waits.answered _ _ rfl rfl
    · obtain rfl := next_unique run (exec_arm_placed waits.requestOf verdict (armState_of_inline _ few))
      obtain ⟨g, hg⟩ := Option.isSome_iff_exists.1 gated
      have hasGate : (newSlot (armFieldsOf e) p r (s.sq r).tenant due ops).gate = some (gateOf due g) := by
        show p.gate.map _ = _
        rw [hg]
        rfl
      rw [armAccepted, placedCode_of_gated hasGate, State.placeAction_of_gated s _ hasGate]
      exact waits.answered _ _ rfl rfl
    · have pending := armState_of_list p.gate many
      obtain ⟨u, rfl, slot, others, rqe, rest⟩ :=
        s.beginListFetch_effect c e s.freshSlot (newSlot (armFieldsOf e) p r (s.sq r).tenant due ops)
      obtain rfl := next_unique run (exec_arm_pending waits.requestOf verdict pending)
      refine ⟨slot, pending, others, fun h context => ?_, rest⟩
      rw [rqe, context]
      rfl
  case inline =>
    unfold ArmFields.inlineRecords
    split
    · rename_i one
      rw [if_pos (by exact one)]
      rfl
    · rename_i two
      have two : bytesOf e 31 1 = 2 := two
      rw [if_neg (by rw [two]; decide), if_pos two]
      rfl
    · rename_i one two
      rw [if_neg (by exact one), if_neg (by exact two)]
  case list =>
    refine ⟨by simp [listRecords], fun k below => ?_⟩
    simp [listRecords, below]
  case schedule =>
    rintro s u id x due h rfl rfl
    refine ⟨?_, fun k hk => ?_, fun y => mem_insertTimed, sublist_insertTimed _ _,
      fun ordered => insertTimed_ordered _ ordered, rfl⟩
    · rw [State.slot?_enterSchedule, if_pos rfl]
    · rw [State.slot?_enterSchedule, if_neg hk]
  case calendar =>
    rintro s u id x st key h rfl rfl
    refine ⟨?_, fun k hk => ?_, fun y => mem_insertTimed, sublist_insertTimed _ _,
      fun ordered => insertTimed_ordered _ ordered, rfl⟩
    · rw [State.slot?_enterCalendar, if_pos rfl]
    · rw [State.slot?_enterCalendar, if_neg hk]

/-- Settles O17: the verdict, check by check, and the checks of fields and records. -/
theorem armRefusedInOrder : Obligations.ArmRefusedInOrder := by
  refine ⟨?deleting, ?refused, armParams_iff, fun s tenant records => ⟨fun ops => ?ok,
    fun i => checkRecords_badField_iff, fun st i => checkRecords_denied_iff⟩⟩
  case ok => rw [State.checkRecords_eq_ok_iff, readRecords_eq_ok_iff, State.firstDenied_eq_none_iff]
  case deleting =>
    intro s c r e ready context kind deleting active
    have request := (s.requestOf_eq_some_iff c .arm r e).2 ⟨ready, context, kind⟩
    obtain ⟨v, answered, retires⟩ :=
      s.completeRequest_deleting c r (armRefused .wrongState 0 (armFieldsOf e).tag s.now) deleting active
    exact ⟨_, v, exec_arm_refused request (State.armVerdict_of_deleting deleting), answered, retires⟩
  case refused =>
    intro s c r e waits
    have ring := waits.not_deleting
    obtain ⟨t, run, -⟩ := commandsKeepTheQueue (.arm c) s
    have refused {st : Status} {i : Nat} (verdict : s.armVerdict r e = .refuse st i) :
        Answered s t c r { status := st, time := s.tb.value, tag := (armFieldsOf e).tag, opIndex := i } :=
      next_unique run (exec_arm_refused waits.requestOf verdict) ▸ waits.answered _ _ rfl rfl
    refine ⟨t, run, fun unset => refused (State.armVerdict_of_unset ring unset),
      fun running params => refused (State.armVerdict_of_badField ring running params), fun p running params => ?_⟩
    have timesFail {st : Status} {i : Nat} (times : s.armTimes (s.sq r).tenant (armFieldsOf e) p = .error (st, i)) :=
      refused (State.armVerdict_of_times_error ring running params times)
    refine ⟨fun first => timesFail (State.armTimes_of_no_due first), fun due first => ⟨fun g hg outside => ?_,
      fun gate => ⟨fun st i records => timesFail (State.armTimes_of_records_error first gate records),
        fun ops records => ?_⟩⟩⟩
    · refine timesFail (State.armTimes_of_gate first ?_)
      rw [hg, Option.all_some, ← Bool.not_eq_true, gateTimesOk_iff]
      omega
    · have verdict := State.armVerdict_of_times_ok ring running params
        (State.armTimes_of_records_ok first gate records)
      refine ⟨fun duplicate => refused ?_, fun fresh above => refused ?_, fun fresh under full => refused ?_⟩
      · rw [verdict, if_pos duplicate]
      · rw [verdict, fresh, if_neg (by decide), if_pos above]
      · rw [verdict, fresh, if_neg (by decide), if_neg (Nat.not_le.2 under), if_pos (by exact full)]

end Sys2Proof.Machine

/-! The end of a list fetch (R51, R52): a failure, the timeout, and the records that arrive. -/

namespace Sys2Proof.Machine

open Sys2Proof

section fetch

variable {s : State} {c : Fin 8} {r : Fin 16} {e : Entry} {id sample timer : Nat} {l : Bool} {x : Slot}

theorem State.fetchOf_eq_some {h : Nat} (ready : s.hp.condition = .ready)
    (context : s.ctx c = .effect r h e (.listFetch id sample timer l)) (slot : s.slot? id = some x) :
    s.fetchOf c = some (r, e, id, sample, timer, l, x) := by
  unfold State.fetchOf
  rw [if_pos (State.isReady_iff.2 ready), context]
  dsimp only
  rw [slot]

theorem exec_listFetchDone_failed (h : s.fetchOf c = some (r, e, id, sample, timer, l, x)) :
    exec (.listFetchDone c .failed) s
      = .next (s.refuseFetched c r id (armRefused .listFetchError 0 (armFieldsOf e).tag sample)) := by
  show execListFetchDone c .failed s = _
  rw [execListFetchDone, h]

theorem exec_listFetchDone_data (h : s.fetchOf c = some (r, e, id, sample, timer, true, x)) (bytes : ListBytes) :
    exec (.listFetchDone c (.data bytes)) s = .next (s.listArrived c r e id sample x bytes) := by
  show execListFetchDone c (.data bytes) s = _
  rw [execListFetchDone, h]
  rfl

theorem exec_listFetchDone_data_offLink (h : s.fetchOf c = some (r, e, id, sample, timer, false, x)) (bytes : ListBytes) :
    exec (.listFetchDone c (.data bytes)) s = .next s := by
  show execListFetchDone c (.data bytes) s = _
  rw [execListFetchDone, h]
  rfl

theorem exec_listFetchTimeout_due (h : s.fetchOf c = some (r, e, id, sample, timer, true, x)) (due : 100000 ≤ timer) :
    exec (.listFetchTimeout c) s = .next ((s.noteStale (.list c)).refuseFetched c r id
      (armRefused .listFetchError 0 (armFieldsOf e).tag sample)) := by
  show execListFetchTimeout c s = _
  rw [execListFetchTimeout, h]
  dsimp only
  rw [if_pos ⟨rfl, due⟩]

theorem exec_listFetchTimeout_early (h : s.fetchOf c = some (r, e, id, sample, timer, l, x))
    (early : ¬ (l = true ∧ 100000 ≤ timer)) : exec (.listFetchTimeout c) s = .next s := by
  show execListFetchTimeout c s = _
  rw [execListFetchTimeout, h]
  dsimp only
  rw [if_neg (by exact early)]

/-! ## The data of a list -/

theorem State.listArrived_of_deleting (deleting : (s.sq r).state = .deleting) (bytes : ListBytes) :
    s.listArrived c r e id sample x bytes
      = s.refuseFetched c r id (armRefused .wrongState 0 (armFieldsOf e).tag sample) := if_pos deleting

theorem State.listArrived_of_error {st : Status} {i : Nat} {bytes : ListBytes} (ring : (s.sq r).state ≠ .deleting)
    (records : s.checkRecords x.tenant (listRecords bytes (armFieldsOf e).opCount) = .error (st, i)) :
    s.listArrived c r e id sample x bytes = s.refuseFetched c r id (armRefused st i (armFieldsOf e).tag sample) := by
  unfold State.listArrived
  dsimp only
  rw [if_neg ring, records]

theorem State.listArrived_of_ok {ops : List Op} {bytes : ListBytes} (ring : (s.sq r).state ≠ .deleting)
    (records : s.checkRecords x.tenant (listRecords bytes (armFieldsOf e).opCount) = .ok ops) :
    s.listArrived c r e id sample x bytes
      = (s.placeAction id { x with ops := ops }).completeRequest c r (armAccepted x sample) := by
  unfold State.listArrived
  dsimp only
  rw [if_neg ring, records]

end fetch

/-- A refusal after the list fetch is answered in the state without the slot. -/
theorem State.answered_refuseFetched (u : State) (c : Fin 8) (r : Fin 16) (id : Nat) (x : Result)
    (ring : (u.sq r).state ≠ .deleting) (active : (u.cq (u.sq r).cq).state = .active) :
    Answered (u.freeSlot id) (u.refuseFetched c r id x) c r x :=
  State.answered_completeRequest (u.freeSlot id) c r x ring active

/-- On a DELETING ring it is answered in the same way, and the ring may then retire. -/
theorem State.answered_refuseFetched_deleting (u : State) (c : Fin 8) (r : Fin 16) (id : Nat) (x : Result)
    (ring : (u.sq r).state = .deleting) (active : (u.cq (u.sq r).cq).state = .active) :
    ∃ v, Answered (u.freeSlot id) v c r x ∧ RetiresIfEmpty v (u.refuseFetched c r id x) r :=
  State.completeRequest_deleting (u.freeSlot id) c r x ring active

/-- Settles O18. -/
theorem listFetchEnds : Obligations.ListFetchEnds := by
  refine ⟨fun s c r h e id sample timer l x ready context slot active => ?_, ?freed⟩
  · have fetch := State.fetchOf_eq_some ready context slot
    refine ⟨fun ring => ?failed, fun ring onLink due => ?timeout, fun early => ?early, fun offLink => ?offLink,
      fun ring onLink bytes => ?arrived, fun ring => ⟨?failedDeleting, fun onLink due => ?timeoutDeleting,
      fun onLink bytes => ?arrivedDeleting⟩⟩
    case failed => exact ⟨_, exec_listFetchDone_failed fetch, s.answered_refuseFetched c r id _ ring active⟩
    case timeout =>
      subst onLink
      exact ⟨_, exec_listFetchTimeout_due fetch due, (s.noteStale (.list c)).answered_refuseFetched c r id _ ring active⟩
    case early => exact exec_listFetchTimeout_early fetch (fun due => Nat.not_le.2 early due.2)
    case offLink =>
      subst offLink
      exact ⟨exec_listFetchTimeout_early fetch (fun due => Bool.false_ne_true due.1),
        exec_listFetchDone_data_offLink fetch⟩
    case arrived =>
      subst onLink
      have run := exec_listFetchDone_data fetch bytes
      refine ⟨_, run, fun st i records => ?_, fun ops records ungated => ?_, fun ops g records gated => ?_⟩
      · rw [State.listArrived_of_error ring records]
        exact s.answered_refuseFetched c r id _ ring active
      · rw [State.listArrived_of_ok ring records, armAccepted, placedCode_of_ungated ungated,
          State.placeAction_of_ungated s id (x := { x with ops := ops }) ungated]
        exact State.answered_completeRequest _ c r _ ring active
      · rw [State.listArrived_of_ok ring records, armAccepted, placedCode_of_gated gated,
          State.placeAction_of_gated s id (x := { x with ops := ops }) gated]
        exact State.answered_completeRequest _ c r _ ring active
    case failedDeleting =>
      obtain ⟨v, answered, retires⟩ := s.answered_refuseFetched_deleting c r id _ ring active
      exact ⟨_, v, exec_listFetchDone_failed fetch, answered, retires⟩
    case timeoutDeleting =>
      subst onLink
      obtain ⟨v, answered, retires⟩ := (s.noteStale (.list c)).answered_refuseFetched_deleting c r id _ ring active
      exact ⟨_, v, exec_listFetchTimeout_due fetch due, answered, retires⟩
    case arrivedDeleting =>
      subst onLink
      obtain ⟨v, answered, retires⟩ := s.answered_refuseFetched_deleting c r id _ ring active
      have run := exec_listFetchDone_data fetch bytes
      rw [State.listArrived_of_deleting ring] at run
      exact ⟨_, v, run, answered, retires⟩
  case freed =>
    rintro s u id rfl
    refine ⟨?_, fun k hk => ?_, rfl, rfl, fun l => ?_, rfl⟩
    · rw [State.slot?_freeSlot, if_pos rfl]
    · rw [State.slot?_freeSlot, if_neg hk]
    · show (s.lnu.listen.map (fun k => k.filter (fun i => !(i == id))))[l] = _
      rw [Fin.getElem_fin, Vector.getElem_map]
      rfl

end Sys2Proof.Machine

/-! Staging, the start and the budget of a firing (R69 to R76), and how its operations are begun and end (R96 to R113,
R134). -/

namespace Sys2Proof.Machine

open Sys2Proof

/-! ## STAGE (R69, R43) -/

theorem State.live_eq_false_iff {s : State} : s.live = false ↔ ¬ Lives s := by
  rw [← Bool.not_eq_true, State.live_iff]

/-- With an IDLE engine, a head whose due less the lead has been reached, no hold and the part alive, one staging binds an
ARMED head to the lowest IDLE engine. -/
theorem State.stageHead_of_armed {s : State} {h : TimedEntry} {rest : List TimedEntry} {x : Slot} {e : Fin 4}
    (schedule : s.dsp.schedule = h :: rest) (slot : s.slot? h.slot = some x) (armed : x.state = .armed)
    (reached : h.time ≤ s.tb.value + 1000 * s.dsp.lead) (noHold : s.dsp.hold = false) (alive : Lives s)
    (idle : (s.engine e).state = .idle) (lowest : ∀ f < e, (s.engine f).state ≠ .idle) :
    s.stageHead = (({ s with dsp := { s.dsp with schedule := rest } } : State).setSlot h.slot
      { x with state := .staged }).setEngine e (Engine.boundTo h.slot h.time) := by
  rcases s.stageHead_cases with ⟨-, stopped⟩ | ⟨h', rest', e', schedule', -, -, -, idle', lowest', dropped | bound⟩
  · rcases stopped with empty | ⟨h', rest', schedule', ahead⟩ | busy | hold | dead
    · rw [schedule] at empty; cases empty
    · rw [schedule] at schedule'; cases schedule'; omega
    · exact absurd idle (busy e)
    · rw [noHold] at hold; cases hold
    · exact absurd alive dead
  · rw [schedule] at schedule'
    cases schedule'
    exact absurd armed (dropped.1 x slot)
  · rw [schedule] at schedule'
    cases schedule'
    obtain ⟨x', slot', -, staged⟩ := bound
    rw [slot] at slot'
    cases slot'
    obtain rfl : e' = e := by
      rcases lt_trichotomy e' e with below | same | above
      · exact absurd idle' (lowest e' below)
      · exact same
      · exact absurd idle (lowest' e above)
    exact staged

theorem State.stageHead_of_not_armed {s : State} {h : TimedEntry} {rest : List TimedEntry} {e : Fin 4}
    (schedule : s.dsp.schedule = h :: rest) (gone : ∀ x, s.slot? h.slot = some x → x.state ≠ .armed)
    (reached : h.time ≤ s.tb.value + 1000 * s.dsp.lead) (noHold : s.dsp.hold = false) (alive : Lives s)
    (idle : (s.engine e).state = .idle) : s.stageHead = { s with dsp := { s.dsp with schedule := rest } } := by
  rcases s.stageHead_cases with ⟨-, stopped⟩ | ⟨h', rest', e', schedule', -, -, -, -, -, dropped | bound⟩
  · rcases stopped with empty | ⟨h', rest', schedule', ahead⟩ | busy | hold | dead
    · rw [schedule] at empty; cases empty
    · rw [schedule] at schedule'; cases schedule'; omega
    · exact absurd idle (busy e)
    · rw [noHold] at hold; cases hold
    · exact absurd alive dead
  · rw [schedule] at schedule'
    cases schedule'
    exact dropped.2
  · rw [schedule] at schedule'
    cases schedule'
    obtain ⟨x, slot, armed, -⟩ := bound
    exact absurd armed (gone x slot)

/-- Where a condition of R69 does not hold, nothing is staged. -/
theorem State.stageHead_of_stopped {s : State} (h : s.dsp.schedule = [] ∨ (∀ e, (s.engine e).state ≠ .idle)
      ∨ s.dsp.hold = true ∨ ¬ Lives s ∨ ∃ h rest, s.dsp.schedule = h :: rest ∧ s.tb.value + 1000 * s.dsp.lead < h.time) :
    s.stageHead = s := by
  rcases s.stageHead_cases with ⟨same, -⟩ | ⟨h', rest', e', schedule', reached, noHold, alive, idle, -⟩
  · exact same
  · rcases h with empty | busy | hold | dead | ⟨h'', rest'', schedule'', ahead⟩
    · rw [schedule'] at empty; cases empty
    · exact absurd idle (busy e')
    · rw [noHold] at hold; cases hold
    · exact absurd alive dead
    · rw [schedule'] at schedule''; cases schedule''; omega

/-- Settles O27. -/
theorem stageBindsTheHead : Obligations.StageBindsTheHead := by
  refine ⟨fun s h rest x e schedule slot armed reached noHold alive idle lowest => ?_,
    fun s h rest e schedule gone reached noHold alive idle => ?_, fun s stopped => ?_, fun s => rfl⟩
  · have staged := State.stageHead_of_armed schedule slot armed reached noHold alive idle lowest
    refine ⟨s.stageHead, rfl, ?_⟩
    rw [staged]
    have engine : ((({ s with dsp := { s.dsp with schedule := rest } } : State).setSlot h.slot
        { x with state := .staged }).setEngine e (Engine.boundTo h.slot h.time)).engine e
          = Engine.boundTo h.slot h.time := State.engine_setEngine_self _ _ _
    rw [engine]
    exact ⟨slotGet_slotPut_self _ _ _, fun k hk => slotGet_slotPut_of_ne _ _ hk, rfl, rfl, rfl, rfl,
      fun f hf => State.engine_setEngine_of_ne _ _ hf, rfl, rfl, rfl, rfl, rfl, rfl, rfl, rfl, rfl, rfl, rfl, rfl⟩
  · exact congrArg Host.Outcome.next (State.stageHead_of_not_armed schedule gone reached noHold alive idle)
  · exact congrArg Host.Outcome.next (State.stageHead_of_stopped stopped)

/-! ## The start of a firing (R72 to R75) -/

theorem exec_instanceStart {s : State} {e : Fin 4} {x : Slot} (bound : (s.engine e).state = .bound)
    (fresh : (s.engine e).fresh = false) (due : (s.engine e).due ≤ s.tb.value) (alive : Lives s)
    (slot : s.slot? (s.engine e).slot = some x) : exec (.instanceStart e) s = .next (s.startInstance e x) := by
  show execInstanceStart e s = _
  rw [execInstanceStart, if_pos ⟨bound, fresh, due, (State.live_iff s).2 alive⟩, slot]

/-- Settles O28. -/
theorem startBeginsAnInstance : Obligations.StartBeginsAnInstance := by
  constructor
  · rintro s u e x late bound fresh due alive slot rfl rfl
    rw [exec_instanceStart bound fresh due alive slot]
    refine ⟨fun onTime => ?_, fun isLate skip => ?_, fun isLate abort => ?_⟩
    · unfold State.startInstance
      dsimp only
      split
      · rename_i isLate
        rcases onTime with onTime | fire
        · exact absurd isLate (Bool.eq_false_iff.1 onTime)
        · rw [fire]
          rfl
      · rfl
    · unfold State.startInstance
      dsimp only
      rw [if_pos (by exact isLate), skip]
      rfl
    · unfold State.startInstance
      dsimp only
      rw [if_pos (by exact isLate), abort]
      rfl
  · intro s e stopped
    show execInstanceStart e s = _
    rw [execInstanceStart, if_neg]
    rintro ⟨bound, fresh, due, alive⟩
    rcases stopped with other | stale | early | dead
    · exact other bound
    · rw [fresh] at stale; cases stale
    · exact absurd due (Nat.not_le.2 early)
    · exact dead ((State.live_iff s).1 alive)

/-! ## The fire budget (R76, R112) -/

theorem exec_budgetExpired {s : State} {e : Fin 4} (running : (s.engine e).state = .running)
    (noStop : (s.engine e).stop = none) (alive : Lives s) (reached : (s.engine e).budget ≤ (s.engine e).runTime) :
    exec (.budgetExpired e) s = .next (s.stopRunning e .budget) :=
  congrArg Host.Outcome.next (if_pos ⟨running, noStop, reached, (State.live_iff s).2 alive⟩)

/-- Settles O29, by the phase of the operation path. -/
theorem budgetStopsAnInstance : Obligations.BudgetStopsAnInstance := by
  intro s e running noStop alive
  refine ⟨fun below => ?_, fun reached => ?_⟩
  · exact congrArg Host.Outcome.next (if_neg fun h => Nat.not_le.2 below h.2.2.1)
  · rw [exec_budgetExpired running noStop alive reached]
    refine ⟨fun inFlight => ?_, fun idle => ?_, fun waits => ?_⟩
    · unfold State.stopRunning
      rcases inFlight with phase | phase <;> rw [phase]
    · unfold State.stopRunning
      rcases idle with phase | phase <;> rw [phase] <;> rfl
    · unfold State.stopRunning
      rw [waits]
      rfl

/-! ## Beginning operations (R97 to R109) -/

theorem State.takesOpWrite_iff {s : State} : s.takesOpWrite = true ↔ LinkTakes s ∨ s.hp.busMaster = false := by
  unfold State.takesOpWrite State.linkOpen HostPort.linkOpen LinkTakes
  cases s.hp.busMaster <;> simp

theorem State.issueOpWrite_of_linkTakes {s : State} (e : Fin 4) (a : Addr) (w : Width) (d : Word64) (h : LinkTakes s) :
    s.issueOpWrite e a w d = { s with hp := { s.hp with
      bus := s.hp.bus ++ [BusTxn.opWrite e a w d], credits := s.hp.credits - 1 } } := if_pos h.1

theorem State.issueOpWrite_of_no_master {s : State} (e : Fin 4) (a : Addr) (w : Width) (d : Word64)
    (h : s.hp.busMaster = false) : s.issueOpWrite e a w d = s := if_neg (Bool.eq_false_iff.1 h)

/-- A WRITE or a STAMP at its beginning. -/
theorem State.runOps_write (s : State) (e : Fin 4) (tenant i : Nat) (rest : List Op) {o : Op} {w : Width} {a : Addr}
    {d : Word64} (h : o = .write w a d ∨ (o = .stamp a ∧ w = .w64 ∧ d = BitVec.ofNat 64 s.tb.value)) :
    State.runOps e tenant i (o :: rest) s =
      if s.takesOpWrite then
        if permitted s.wtb tenant .write a w.bytes then State.runOps e tenant (i + 1) rest (s.issueOpWrite e a w d)
        else s.endInstance e .accessDenied i
      else s.waitForLink e i 0 := by
  rcases h with rfl | ⟨rfl, rfl, rfl⟩ <;> rfl

/-- A READ or a POLL at its beginning. -/
theorem State.runOps_read (s : State) (e : Fin 4) (tenant i : Nat) (rest : List Op) {o : Op} {w : Width} {a : Addr}
    (h : o = .read w a ∨ ∃ d m limit, o = .poll w a d m limit) :
    State.runOps e tenant i (o :: rest) s =
      if permitted s.wtb tenant .read a w.bytes then s.issueRead e i a w else s.endInstance e .accessDenied i := by
  rcases h with rfl | ⟨d, m, limit, rfl⟩ <;> rfl

/-- Settles O33, operation by operation. -/
theorem operationsAreBegunInOrder : Obligations.OperationsAreBegunInOrder := by
  intro s e tenant i rest
  refine ⟨rfl, fun o w a d op => ?write, ?read, fun n => rfl, fun l v => rfl, fun p => rfl, fun b => rfl⟩
  case write =>
    rw [State.runOps_write s e tenant i rest op]
    refine ⟨fun takes allowed => ?_, fun noMaster allowed => ?_, fun takes denied => ?_, fun master waits => ?_⟩
    · rw [if_pos (State.takesOpWrite_iff.2 (.inl takes)), if_pos allowed, State.issueOpWrite_of_linkTakes e a w d takes]
    · rw [if_pos (State.takesOpWrite_iff.2 (.inr noMaster)), if_pos allowed,
        State.issueOpWrite_of_no_master e a w d noMaster]
    · rw [if_pos (State.takesOpWrite_iff.2 takes), if_neg (Bool.eq_false_iff.1 denied)]
    · have closed : ¬ s.takesOpWrite = true := fun h =>
        (State.takesOpWrite_iff.1 h).elim waits fun noMaster => Bool.false_ne_true (noMaster.symm.trans master)
      rw [if_neg closed]
      rfl
  case read =>
    rintro u w a rfl
    refine ⟨fun o op => ?_, fun d m => ⟨fun read write => ?_, fun denied => ?_⟩⟩
    · rw [State.runOps_read s e tenant i rest op]
      exact ⟨fun allowed => if_pos allowed, fun denied => if_neg (Bool.eq_false_iff.1 denied)⟩
    · exact if_pos (Bool.and_eq_true_iff.2 ⟨read, write⟩)
    · refine if_neg (fun h => ?_)
      obtain ⟨read, write⟩ := Bool.and_eq_true_iff.1 h
      rcases denied with denied | denied
      · rw [read] at denied; cases denied
      · rw [write] at denied; cases denied

/-! ## What comes back to an engine (R101, R103 to R106, R113) -/

theorem InProgress.opInPhase {s : State} {e : Fin 4} {x : Slot} {o : Op} {p : Phase} (h : InProgress s e x o p) :
    s.opInPhase e p = some (x, o) := by
  obtain ⟨running, phase, slot, op⟩ := h
  unfold State.opInPhase
  rw [if_pos ⟨running, phase⟩, slot]
  dsimp only
  rw [op]

theorem State.setCapture_of_slot {s : State} {id : Nat} {x : Slot} (v : Word64) (h : s.slot? id = some x) :
    s.setCapture id v = s.setSlot id { x with capture := v } := by
  unfold State.setCapture
  rw [h]

/-- What the return of a value does to a firing that has been stopped (R113). -/
theorem State.stoppedReturn_effect {s u : State} {e : Fin 4} {x : Slot} {v : Word64}
    (slot : s.slot? (s.engine e).slot = some x) (hu : u = s.setSlot (s.engine e).slot { x with capture := v }) :
    s.stoppedReturn e .budget v = u.endInstance e .overrun (s.engine e).operation
    ∧ s.stoppedReturn e .teardown v = (s.setEngine e Engine.released).freeSlot (s.engine e).slot
    ∧ s.stoppedReturn e .fatal v = u.setEngine e
        { s.engine e with state := .halted, fresh := false, stop := none, path := OpPath.reset } := by
  unfold State.stoppedReturn
  rw [State.setCapture_of_slot v slot, ← hu]
  subst hu
  exact ⟨rfl, rfl, rfl⟩

section returns

variable {s : State} {e : Fin 4} {x : Slot} {w : Width} {a : Addr} {d m v : Word64} {limit : Nat}

theorem exec_readDataReturned_stopped {k : Stop} (h : InProgress s e x (.read w a) .readWait)
    (onLink : (s.engine e).path.onLink = true) (stop : (s.engine e).stop = some k) :
    exec (.readDataReturned e v) s = .next (s.stoppedReturn e k (w.fit v)) := by
  show execReadDataReturned e v s = _
  rw [execReadDataReturned, h.opInPhase]
  dsimp only
  rw [if_pos onLink, stop]

theorem exec_readDataReturned (h : InProgress s e x (.read w a) .readWait)
    (onLink : (s.engine e).path.onLink = true) (stop : (s.engine e).stop = none) :
    exec (.readDataReturned e v) s
      = .next ((s.setCapture (s.engine e).slot (w.fit v)).continueAfter e x (s.engine e).operation) := by
  show execReadDataReturned e v s = _
  rw [execReadDataReturned, h.opInPhase]
  dsimp only
  rw [if_pos onLink, stop]

theorem exec_maskedWriteReadReturned_stopped {k : Stop} (h : InProgress s e x (.maskedWrite w a d m) .readWait)
    (onLink : (s.engine e).path.onLink = true) (stop : (s.engine e).stop = some k) :
    exec (.maskedWriteReadReturned e v) s = .next (s.stoppedReturn e k (w.fit v)) := by
  show execMaskedWriteReadReturned e v s = _
  rw [execMaskedWriteReadReturned, h.opInPhase]
  dsimp only
  rw [if_pos onLink, stop]

theorem exec_maskedWriteReadReturned (h : InProgress s e x (.maskedWrite w a d m) .readWait)
    (onLink : (s.engine e).path.onLink = true) (stop : (s.engine e).stop = none) :
    exec (.maskedWriteReadReturned e v) s
      = .next ((s.setCapture (s.engine e).slot (w.fit v)).maskedWriteBack e x w a (w.fit v) d m) := by
  show execMaskedWriteReadReturned e v s = _
  rw [execMaskedWriteReadReturned, h.opInPhase]
  dsimp only
  rw [if_pos onLink, stop]

theorem exec_pollReadReturned_stopped {k : Stop} (h : InProgress s e x (.poll w a d m limit) .readWait)
    (onLink : (s.engine e).path.onLink = true) (stop : (s.engine e).stop = some k) :
    exec (.pollReadReturned e v) s = .next (s.stoppedReturn e k (w.fit v)) := by
  show execPollReadReturned e v s = _
  rw [execPollReadReturned, h.opInPhase]
  dsimp only
  rw [if_pos onLink, stop]

theorem exec_pollReadReturned (h : InProgress s e x (.poll w a d m limit) .readWait)
    (onLink : (s.engine e).path.onLink = true) (stop : (s.engine e).stop = none) :
    exec (.pollReadReturned e v) s = .next
      (if pollMatches (w.fit v) d m then
        (s.setCapture (s.engine e).slot (w.fit v)).continueAfter e x (s.engine e).operation
      else if limit ≤ (s.engine e).path.pollLimitTimer then
        (s.setCapture (s.engine e).slot (w.fit v)).endInstance e .pollExpired (s.engine e).operation
      else (s.setCapture (s.engine e).slot (w.fit v)).setPath e (s.engine e).operation
        { (s.engine e).path with phase := .pollGap, lastValue := w.fit v, readTimer := 0 }) := by
  show execPollReadReturned e v s = _
  rw [execPollReadReturned, h.opInPhase]
  dsimp only
  rw [if_pos onLink, stop]

theorem exec_pollSpacingElapsed (h : InProgress s e x (.poll w a d m limit) .pollGap) :
    exec (.pollSpacingElapsed e) s = .next
      (if 1000 ≤ (s.engine e).path.pollSpacingTimer ∧ (s.engine e).path.pollLimitTimer < limit then
        if permitted s.wtb x.tenant .read a w.bytes then
          (s.setPath e (s.engine e).operation
            { (s.engine e).path with phase := .readWait, readTimer := 0, pollSpacingTimer := 0,
                                     onLink := s.hp.busMaster }).placeIfMaster (.opRead e a w)
        else s.endInstance e .accessDenied (s.engine e).operation
      else s) := by
  show execPollSpacingElapsed e s = _
  rw [execPollSpacingElapsed, h.opInPhase]
  rfl

theorem exec_pollLimitExpired (h : InProgress s e x (.poll w a d m limit) .pollGap) :
    exec (.pollLimitExpired e) s = .next
      (if limit ≤ (s.engine e).path.pollLimitTimer then s.endInstance e .pollExpired (s.engine e).operation else s) := by
  show execPollLimitExpired e s = _
  rw [execPollLimitExpired, h.opInPhase]

end returns

/-- The second half of a MASKED_WRITE, once its value has returned (R104): issued, discarded, refused, or left waiting. -/
theorem State.maskedWriteBack_effect (u : State) (e : Fin 4) (x : Slot) (w : Width) (a : Addr) (old d m : Word64) :
    (LinkTakes u → permitted u.wtb x.tenant .write a w.bytes = true → u.maskedWriteBack e x w a old d m
      = State.runOps e x.tenant ((u.engine e).operation + 1) (x.ops.drop (u.engine e).operation)
          { u with hp := { u.hp with
              bus := u.hp.bus ++ [BusTxn.opWrite e a w (maskedValue w old d m)], credits := u.hp.credits - 1 } })
    ∧ (u.hp.busMaster = false → permitted u.wtb x.tenant .write a w.bytes = true → u.maskedWriteBack e x w a old d m
      = State.runOps e x.tenant ((u.engine e).operation + 1) (x.ops.drop (u.engine e).operation) u)
    ∧ ((LinkTakes u ∨ u.hp.busMaster = false) → permitted u.wtb x.tenant .write a w.bytes = false →
      u.maskedWriteBack e x w a old d m = u.endInstance e .accessDenied (u.engine e).operation)
    ∧ (u.hp.busMaster = true → ¬ LinkTakes u →
      u.maskedWriteBack e x w a old d m = u.waitForLink e (u.engine e).operation old) := by
  unfold State.maskedWriteBack
  refine ⟨fun takes allowed => ?_, fun noMaster allowed => ?_, fun takes denied => ?_, fun master waits => ?_⟩
  · rw [if_pos (State.takesOpWrite_iff.2 (.inl takes)), if_pos allowed, State.issueOpWrite_of_linkTakes _ _ _ _ takes]
    rfl
  · rw [if_pos (State.takesOpWrite_iff.2 (.inr noMaster)), if_pos allowed,
      State.issueOpWrite_of_no_master _ _ _ _ noMaster]
    rfl
  · rw [if_pos (State.takesOpWrite_iff.2 takes), if_neg (Bool.eq_false_iff.1 denied)]
  · exact if_neg fun h => (State.takesOpWrite_iff.1 h).elim waits
      fun noMaster => Bool.false_ne_true (noMaster.symm.trans master)

/-- Settles O34. -/
theorem readsReturn : Obligations.ReadsReturn := by
  constructor
  · rintro s u e x w a o i v op progress onLink hu
    have slot := progress.2.2.1
    obtain ⟨budget, teardown, fatal⟩ := State.stoppedReturn_effect slot hu
    have stopped {k : Stop} (stop : (s.engine e).stop = some k) :
        exec i s = .next (s.stoppedReturn e k (w.fit v)) := by
      rcases op with ⟨rfl, rfl⟩ | ⟨d, m, rfl, rfl⟩
      · exact exec_readDataReturned_stopped progress onLink stop
      · exact exec_maskedWriteReadReturned_stopped progress onLink stop
    refine ⟨fun stop isRead => ?_, fun stop => budget ▸ stopped stop, fun stop => teardown ▸ stopped stop,
      fun stop => fatal ▸ stopped stop⟩
    rcases op with ⟨rfl, rfl⟩ | ⟨d, m, rfl, -⟩
    · rw [exec_readDataReturned progress onLink stop, State.setCapture_of_slot _ slot, ← hu]
      rfl
    · cases isRead
  · rintro s u e x w a d m v progress onLink stop rfl
    have slot := progress.2.2.1
    obtain ⟨issued, discarded, refused, waits⟩ :=
      (s.setSlot (s.engine e).slot { x with capture := w.fit v }).maskedWriteBack_effect e x w a (w.fit v) d m
    rw [exec_maskedWriteReadReturned progress onLink stop, State.setCapture_of_slot _ slot]
    exact ⟨fun takes allowed => congrArg Host.Outcome.next (issued takes allowed),
      fun noMaster allowed => congrArg Host.Outcome.next (discarded noMaster allowed),
      fun takes denied => congrArg Host.Outcome.next (refused takes denied),
      fun master closed => congrArg Host.Outcome.next (waits master closed)⟩

theorem pollMatches_iff (v data mask : Word64) : pollMatches v data mask = true ↔ v &&& mask = data &&& mask :=
  beq_iff_eq

/-- Settles O35. -/
theorem pollReadsUntilItMatches : Obligations.PollReadsUntilItMatches := by
  constructor
  · rintro s u e x w a d m v limit progress onLink hu
    have slot := progress.2.2.1
    obtain ⟨budget, teardown, fatal⟩ := State.stoppedReturn_effect slot hu
    have stopped {k : Stop} (stop : (s.engine e).stop = some k) := exec_pollReadReturned_stopped (v := v) progress onLink stop
    have returned (stop : (s.engine e).stop = none) := exec_pollReadReturned (v := v) progress onLink stop
    rw [State.setCapture_of_slot _ slot, ← hu] at returned
    subst hu
    refine ⟨fun stop same => ?_, fun stop other late => ?_, fun stop other early => ?_,
      fun stop => budget ▸ stopped stop, fun stop => teardown ▸ stopped stop, fun stop => fatal ▸ stopped stop⟩
    · rw [returned stop, if_pos ((pollMatches_iff _ _ _).2 same)]
      rfl
    · rw [returned stop, if_neg (mt (pollMatches_iff _ _ _).1 other), if_pos late]
    · rw [returned stop, if_neg (mt (pollMatches_iff _ _ _).1 other), if_neg (Nat.not_le.2 early)]
      rfl
  · rintro s e x w a d m limit progress
    rw [exec_pollSpacingElapsed progress, exec_pollLimitExpired progress]
    refine ⟨fun spaced below master allowed => ?_, fun spaced below noMaster allowed => ?_, fun spaced below denied => ?_,
      fun early => ?_, fun late => ?_, fun below => ?_⟩
    · rw [if_pos ⟨spaced, below⟩, if_pos allowed, State.placeIfMaster, if_pos (by exact master), master]
      rfl
    · rw [if_pos ⟨spaced, below⟩, if_pos allowed, State.placeIfMaster, if_neg (by exact Bool.eq_false_iff.1 noMaster),
        noMaster]
      rfl
    · rw [if_pos ⟨spaced, below⟩, if_neg (Bool.eq_false_iff.1 denied)]
    · rw [if_neg (by omega)]
    · rw [if_pos late]
    · rw [if_neg (Nat.not_le.2 below)]

/-- What the failure of a read does, by the stop of the firing (R101, R113). -/
theorem State.failRead_effect (u : State) (e : Fin 4) :
    ((u.engine e).stop = none → u.failRead e = u.endInstance e .busError (u.engine e).operation)
    ∧ ((u.engine e).stop = some .budget → u.failRead e = u.endInstance e .overrun (u.engine e).operation)
    ∧ ((u.engine e).stop = some .teardown → u.failRead e = (u.setEngine e Engine.released).freeSlot (u.engine e).slot)
    ∧ ((u.engine e).stop = some .fatal → u.failRead e = u.setEngine e
        { u.engine e with state := .halted, fresh := false, stop := none, path := OpPath.reset }) := by
  unfold State.failRead
  refine ⟨fun stop => ?_, fun stop => ?_, fun stop => ?_, fun stop => ?_⟩
  · rw [stop]
  · rw [stop]; rfl
  · rw [stop]; rfl
  · rw [stop]; rfl

/-- Settles O36. -/
theorem readsFail : Obligations.ReadsFail := by
  intro s e x o progress
  refine ⟨fun u i cause => ?_, fun early => ?_, rfl⟩
  · have run : exec i s = .next (u.failRead e) ∧ u.engine e = s.engine e := by
      rcases cause with ⟨rfl, rfl⟩ | ⟨rfl, rfl, onLink, due⟩
      · refine ⟨?_, rfl⟩
        show execReadFailed e u = _
        rw [execReadFailed, progress.opInPhase]
      · refine ⟨?_, rfl⟩
        show execReadTimeout e s = _
        rw [execReadTimeout, progress.opInPhase]
        dsimp only
        rw [if_pos ⟨onLink, due⟩]
    obtain ⟨run, same⟩ := run
    have effect := u.failRead_effect e
    rw [same] at effect
    obtain ⟨failed, budget, teardown, fatal⟩ := effect
    exact ⟨fun stop => failed stop ▸ run, fun stop => budget stop ▸ run, fun stop => teardown stop ▸ run,
      fun stop => fatal stop ▸ run⟩
  · show execReadTimeout e s = _
    rw [execReadTimeout, progress.opInPhase]
    dsimp only
    rw [if_neg]
    rintro ⟨onLink, due⟩
    rcases early with early | offLink
    · exact Nat.not_le.2 early due
    · rw [onLink] at offLink; cases offLink

end Sys2Proof.Machine

/-! Writes that waited for the link, WAIT and LINE (R96 to R100, R107 to R109, R134), and the dispatch commands (R88 to R90). -/

namespace Sys2Proof.Machine

open Sys2Proof

/-! ## Writes that waited for the link (R96, R100, R107, R72) -/

section waiting

variable {s : State} {e : Fin 4} {x : Slot} {o : Op} {rest : List Posted}

/-- The front write is checked at its acceptance, where the law of R72 does not hold it back. -/
theorem exec_writeAcceptedByLink {a : Addr} {w : Width} {d : Word64} (h : InProgress s e x o .writeWait)
    (posted : s.hp.posted = .op e :: rest) (notHeld : s.heldForDue e o = false)
    (write : s.acceptedWrite e o = some (a, w, d)) :
    exec (.writeAcceptedByLink e) s = .next
      (if permitted s.wtb x.tenant .write a w.bytes then
        (({ s with hp := { s.hp with posted := rest } } : State).acceptOpWrite e a w d).continueAfter e x
          (s.engine e).operation
      else ({ s with hp := { s.hp with posted := rest } } : State).endInstance e .accessDenied (s.engine e).operation) := by
  show execWriteAcceptedByLink e s = _
  rw [execWriteAcceptedByLink, h.opInPhase, posted]
  dsimp only
  rw [if_pos ⟨rfl, notHeld⟩, write]

theorem exec_writeAcceptedByLink_held (held : s.heldForDue e o = true) (h : InProgress s e x o .writeWait) :
    exec (.writeAcceptedByLink e) s = .next s := by
  show execWriteAcceptedByLink e s = _
  rw [execWriteAcceptedByLink, h.opInPhase]
  split
  · rename_i f x' o' front same posted
    cases same
    rw [if_neg]
    rintro ⟨-, free⟩
    rw [held] at free
    cases free
  · rfl

/-- R72 holds back the write that would issue the first operation of its firing before the due time. -/
theorem State.heldForDue_iff : s.heldForDue e o = true ↔ s.hp.busMaster = true ∧ (s.engine e).operation = 1
    ∧ o.issuedByWrite = true ∧ s.tb.value < (s.engine e).due := by
  simp only [State.heldForDue, Bool.and_eq_true, beq_iff_eq, decide_eq_true_eq, and_assoc]
  exact Iff.rfl

/-- Settles O37. -/
theorem waitsEnd : Obligations.WaitsEnd := by
  refine ⟨?accepted, ?held, ?waited⟩
  case accepted =>
    rintro s u e x o rest a w d progress posted rfl op notHeld
    have write : s.acceptedWrite e o = some (a, w, d) := by
      rcases op with rfl | ⟨rfl, rfl, rfl⟩ | ⟨dat, m, rfl, rfl⟩ <;> rfl
    have free : s.heldForDue e o = false := by
      refine Bool.eq_false_iff.2 fun held => ?_
      obtain ⟨master, first, byWrite, early⟩ := State.heldForDue_iff.1 held
      rcases notHeld with later | due | noMaster | ⟨dat, m, rfl⟩
      · exact later first
      · exact Nat.not_lt.2 due early
      · rw [master] at noMaster; cases noMaster
      · cases byWrite
    rw [exec_writeAcceptedByLink progress posted free write]
    refine ⟨fun allowed master => ?_, fun allowed noMaster => ?_, fun denied => ?_⟩
    · rw [if_pos allowed, State.acceptOpWrite, State.placeIfMaster, if_pos (by exact master)]
      rfl
    · rw [if_pos allowed, State.acceptOpWrite, State.placeIfMaster, if_neg (by exact Bool.eq_false_iff.1 noMaster)]
      rfl
    · rw [if_neg (Bool.eq_false_iff.1 denied)]
  case held =>
    intro s e x o progress master first op early
    have byWrite : o.issuedByWrite = true := by
      rcases op with ⟨w, a, d, rfl⟩ | ⟨a, rfl⟩ <;> rfl
    exact exec_writeAcceptedByLink_held (State.heldForDue_iff.2 ⟨master, first, byWrite, early⟩) progress
  case waited =>
    intro s e x length progress
    have run : exec (.waitElapsed e) s = .next
        (if length ≤ (s.engine e).path.waitTimer then s.continueAfter e x (s.engine e).operation else s) := by
      show execWaitElapsed e s = _
      rw [execWaitElapsed, progress.opInPhase]
    rw [run]
    refine ⟨fun elapsed => ?_, fun early => ?_⟩
    · rw [if_pos elapsed]
      rfl
    · rw [if_neg (Nat.not_le.2 early)]

end waiting

/-! ## LINE requests at LNU (R99, R134) -/

theorem State.lineGranted_iff {s : State} {tenant : Nat} {l : Fin 4} :
    s.lineGranted tenant l = true ↔ Lives s ∧ (s.output l).owner = some tenant := by
  rw [State.lineGranted, Bool.and_eq_true, State.live_iff, beq_iff_eq]

section lineRequest

variable {s : State} {e : Fin 4} {x : Slot} {l : Fin 4} {v : Level}

/-- What LNU leaves for the answer of a LINE request: the level set where the request is granted. -/
def State.lineAnswered (s : State) (x : Slot) (l : Fin 4) (v : Level) : State :=
  if s.lineGranted x.tenant l then s.setLevel l v else s

theorem State.lineAnswered_of_granted (alive : Lives s) (owner : (s.output l).owner = some x.tenant) :
    s.lineAnswered x l v = s.setOutput l { s.output l with level := v } :=
  if_pos (State.lineGranted_iff.2 ⟨alive, owner⟩)

theorem State.lineAnswered_of_not_granted (h : ¬ (Lives s ∧ (s.output l).owner = some x.tenant)) :
    s.lineAnswered x l v = s := if_neg (mt State.lineGranted_iff.1 h)

theorem exec_lineRequest_stopped {k : Stop} (h : InProgress s e x (.line l v) .lineWait)
    (stop : (s.engine e).stop = some k) :
    exec (.lineRequest e) s = .next ((s.lineAnswered x l v).afterStop e k) := by
  show execLineRequest e s = _
  rw [execLineRequest, h.opInPhase]
  dsimp only
  rw [stop]
  rfl

theorem exec_lineRequest (h : InProgress s e x (.line l v) .lineWait) (stop : (s.engine e).stop = none) :
    exec (.lineRequest e) s = .next
      (if s.lineGranted x.tenant l then (s.lineAnswered x l v).continueAfter e x (s.engine e).operation
      else (s.lineAnswered x l v).endInstance e .lineDenied (s.engine e).operation) := by
  show execLineRequest e s = _
  rw [execLineRequest, h.opInPhase]
  dsimp only
  rw [stop]
  rfl

end lineRequest

/-- Settles O38, by the owner of the line and the stop of the firing. -/
theorem lineRequestNeedsTheOwner : Obligations.LineRequestNeedsTheOwner := by
  intro s e x l v progress
  refine ⟨fun alive owner stop => ?_, fun other stop => ?_, fun alive owner stop => ?_, fun other stop => ?_,
    fun dead stop => ?_, fun dead stop => ?_⟩
  · rw [exec_lineRequest progress stop, if_pos (State.lineGranted_iff.2 ⟨alive, owner⟩),
      State.lineAnswered_of_granted alive owner]
    rfl
  · have denied : ¬ (Lives s ∧ (s.output l).owner = some x.tenant) := fun h => other h.2
    rw [exec_lineRequest progress stop, if_neg (mt State.lineGranted_iff.1 denied),
      State.lineAnswered_of_not_granted denied]
  · rw [exec_lineRequest_stopped progress stop, State.lineAnswered_of_granted alive owner]
    rfl
  · rw [exec_lineRequest_stopped progress stop, State.lineAnswered_of_not_granted fun h => other h.2]
    rfl
  · rw [exec_lineRequest_stopped progress stop, State.lineAnswered_of_not_granted fun h => dead h.1]
    rfl
  · rw [exec_lineRequest_stopped progress stop, State.lineAnswered_of_not_granted fun h => dead h.1]
    rfl

/-! ## HOLD, RESUME and SET DISPATCH (R88 to R90) -/

theorem State.busyEngines_eq (s : State) : s.busyEngines
    = s.dsp.engines.toList.countP (fun x => decide (x.state = .bound ∨ x.state = .running)) := by
  unfold State.busyEngines
  congr 1
  funext x
  rw [Bool.eq_iff_iff, decide_eq_true_iff, Bool.or_eq_true, beq_iff_eq, beq_iff_eq]

theorem State.holdResult_eq (s : State) : s.holdResult =
    { status := .ok, time := s.tb.value, aux32 := if s.dsp.hold then 1 else 0
      value := BitVec.ofNat 64
        (s.dsp.engines.toList.countP (fun x => decide (x.state = .bound ∨ x.state = .running))) } := by
  rw [← State.busyEngines_eq]
  rfl

section dispatch

variable {s : State} {c : Fin 8} {e : Entry}

theorem exec_holdDispatch (h : AdminWaits s c .holdDispatch e) : exec (.holdDispatch c) s
    = .next (({ s with dsp := { s.dsp with hold := true } } : State).completeRequest c 0 s.holdResult) := by
  show execHoldDispatch c s = _
  rw [execHoldDispatch, h.requestOf]

theorem exec_resumeDispatch (h : AdminWaits s c .resumeDispatch e) : exec (.resumeDispatch c) s = .next
    (if s.dsp.hold then
      (({ s with dsp := { s.dsp with hold := false } } : State).completeRequest c 0 s.holdResult).stageAll
    else ({ s with dsp := { s.dsp with hold := false } } : State).completeRequest c 0 s.holdResult) := by
  show execResumeDispatch c s = _
  rw [execResumeDispatch, h.requestOf]

theorem exec_setDispatch_ok {lead budget : Nat} (h : AdminWaits s c .setDispatch e) (hl : lead = bytesOf e 8 2)
    (hb : budget = bytesOf e 10 2) (ok : 2 ≤ lead ∧ lead ≤ 1000 ∧ 1 ≤ budget ∧ budget ≤ 1000) :
    exec (.setDispatch c) s = .next
      (({ s with dsp := { s.dsp with lead := lead, budget := budget } } : State).completeRequest c 0
        { status := .ok, time := s.tb.value, value := packValue lead 16 budget }).stageAll := by
  subst hl hb
  show execSetDispatch c s = _
  rw [execSetDispatch, h.requestOf]
  dsimp only
  rw [if_pos ok]
  rfl

theorem exec_setDispatch_bad {lead budget : Nat} (h : AdminWaits s c .setDispatch e) (hl : lead = bytesOf e 8 2)
    (hb : budget = bytesOf e 10 2) (bad : ¬ (2 ≤ lead ∧ lead ≤ 1000 ∧ 1 ≤ budget ∧ budget ≤ 1000)) :
    exec (.setDispatch c) s = .next
      (s.completeRequest c 0 { status := .badField, time := s.tb.value, value := packValue s.dsp.lead 16 s.dsp.budget }) := by
  subst hl hb
  show execSetDispatch c s = _
  rw [execSetDispatch, h.requestOf]
  dsimp only
  rw [if_neg bad]
  rfl

end dispatch

/-- Settles O32: the staging that follows a RESUME or an accepted SET DISPATCH is that of `stageAll`. -/
theorem dispatchCommands : Obligations.DispatchCommands := by
  refine ⟨fun s c e waits => ?hold, fun s c e waits => ?resume, fun s c e lead budget waits hl hb => ?set⟩
  case hold =>
    refine ⟨_, exec_holdDispatch waits, ?_⟩
    rw [State.holdResult_eq]
    exact waits.answered _ _ rfl rfl
  case resume =>
    rw [exec_resumeDispatch waits, State.holdResult_eq]
    refine ⟨fun held => ?_, fun free => ?_⟩
    · rw [if_pos held, if_pos held]
      obtain ⟨taken, staged⟩ := State.stageAll_stagedFrom
        (({ s with dsp := { s.dsp with hold := false } } : State).completeRequest c 0
          { status := .ok, time := s.tb.value, aux32 := 1
            value := BitVec.ofNat 64
              (s.dsp.engines.toList.countP (fun x => decide (x.state = .bound ∨ x.state = .running))) })
      exact ⟨_, taken, rfl, staged, waits.answered _ _ rfl rfl⟩
    · rw [if_neg (Bool.eq_false_iff.1 free), if_neg (Bool.eq_false_iff.1 free)]
      have same : ({ s with dsp := { s.dsp with hold := false } } : State) = s := by rw [← free]
      rw [same]
      exact ⟨_, rfl, waits.answered _ _ rfl rfl⟩
  case set =>
    refine ⟨fun ok => ?_, fun bad => ⟨_, exec_setDispatch_bad waits hl hb bad, waits.answered _ _ rfl rfl⟩⟩
    obtain ⟨taken, staged⟩ := State.stageAll_stagedFrom
      (({ s with dsp := { s.dsp with lead := lead, budget := budget } } : State).completeRequest c 0
        { status := .ok, time := s.tb.value, value := packValue lead 16 budget })
    exact ⟨_, taken, exec_setDispatch_ok waits hl hb ok, staged, waits.answered _ _ rfl rfl⟩

end Sys2Proof.Machine

/-! The step event at DSP (R91, R92). -/

namespace Sys2Proof.Machine

open Sys2Proof

/-- The due time less the lead of what the engine is BOUND to lies ahead of the timebase (R91). -/
def State.BoundAhead (s : State) (e : Fin 4) : Prop :=
  (s.engine e).state = .bound ∧ s.tb.value + 1000 * s.dsp.lead < (s.engine e).due

/-- The entry with which the action of an engine returns to the firing schedule. -/
def State.unboundEntry (s : State) (e : Fin 4) (y : Slot) : TimedEntry :=
  { slot := (s.engine e).slot, time := (s.engine e).due, seq := y.seq }

section unbind

variable {s : State} {e : Fin 4}

theorem State.boundAhead_iff : s.BoundAhead e ↔
    (s.engine e).state = .bound ∧ s.dueLessLeadReached (s.engine e).due = false := by
  rw [State.BoundAhead, ← Bool.not_eq_true, State.dueLessLeadReached_iff, Nat.not_le]

theorem State.unbind_of_not_ahead (h : ¬ s.BoundAhead e) : s.unbind e = s := by
  rw [State.unbind, if_neg (mt State.boundAhead_iff.2 h)]

theorem State.unbind_of_none (h : s.BoundAhead e) (none : s.slot? (s.engine e).slot = none) :
    s.unbind e = s.setEngine e Engine.released := by
  rw [State.unbind, if_pos (State.boundAhead_iff.1 h), none]

theorem State.unbind_of_some {y : Slot} (h : s.BoundAhead e) (slot : s.slot? (s.engine e).slot = some y) :
    s.unbind e = { (s.setSlot (s.engine e).slot { y with state := .armed }).setEngine e Engine.released with
      dsp := { ((s.setSlot (s.engine e).slot { y with state := .armed }).setEngine e Engine.released).dsp with
        schedule := insertTimed (s.unboundEntry e y) s.dsp.schedule } } := by
  rw [State.unbind, if_pos (State.boundAhead_iff.1 h), slot]
  rfl

end unbind

/-- `u` is `s` with the engines of `es` examined: those that are BOUND too early are released, and their actions are back in
the firing schedule as ARMED. -/
structure Unbound (s u : State) (es : List (Fin 4)) : Prop where
  released : ∀ e ∈ es, s.BoundAhead e → u.engine e = Engine.released
  kept : ∀ e, (e ∉ es ∨ ¬ s.BoundAhead e) → u.engine e = s.engine e
  untouched : ∀ id, (∀ e ∈ es, s.BoundAhead e → (s.engine e).slot ≠ id) → u.slot? id = s.slot? id
  slots : ∀ id, u.slot? id = s.slot? id ∨ ∃ y, s.slot? id = some y ∧ u.slot? id = some { y with state := .armed }
  armed : ∀ e ∈ es, s.BoundAhead e → ∀ y, s.slot? (s.engine e).slot = some y →
    u.slot? (s.engine e).slot = some { y with state := .armed }
  sublist : s.dsp.schedule.Sublist u.dsp.schedule
  entries : ∀ h, h ∈ u.dsp.schedule ↔ h ∈ s.dsp.schedule
    ∨ ∃ e ∈ es, ∃ y, s.BoundAhead e ∧ s.slot? (s.engine e).slot = some y ∧ h = s.unboundEntry e y
  ordered : Ordered s.dsp.schedule → Ordered u.dsp.schedule
  frame : u = { s with
    ast := { s.ast with slots := u.ast.slots }
    dsp := { s.dsp with schedule := u.dsp.schedule, engines := u.dsp.engines } }

namespace Unbound

variable {s u : State} {es : List (Fin 4)} {e : Fin 4}

theorem refl (s : State) : Unbound s s [] where
  released _ h := absurd h List.not_mem_nil
  kept _ _ := rfl
  untouched _ _ := rfl
  slots _ := .inl rfl
  armed _ h := absurd h List.not_mem_nil
  sublist := .refl _
  entries _ := ⟨.inl, fun h => h.elim id fun ⟨_, mem, _⟩ => absurd mem List.not_mem_nil⟩
  ordered := id
  frame := rfl

theorem boundAhead_iff (h : Unbound s u es) (new : e ∉ es) : u.BoundAhead e ↔ s.BoundAhead e := by
  rw [State.BoundAhead, State.BoundAhead, h.kept e (.inl new), h.frame]

/-- An engine that stays as it is adds nothing. -/
theorem skip (h : Unbound s u es) (still : ¬ s.BoundAhead e) : Unbound s u (e :: es) where
  released f mem ahead := (List.mem_cons.1 mem).elim (fun same => absurd (same ▸ ahead) still) (h.released f · ahead)
  kept f out := h.kept f (out.imp_left fun new old => new (List.mem_cons_of_mem _ old))
  untouched id apart := h.untouched id fun f mem => apart f (List.mem_cons_of_mem _ mem)
  slots := h.slots
  armed f mem ahead := (List.mem_cons.1 mem).elim (fun same => absurd (same ▸ ahead) still) (h.armed f · ahead)
  sublist := h.sublist
  entries t := by
    rw [h.entries t]
    refine or_congr_right ⟨fun ⟨f, mem, y, rest⟩ => ⟨f, List.mem_cons_of_mem _ mem, y, rest⟩, fun ⟨f, mem, y, ahead, rest⟩ => ?_⟩
    rcases List.mem_cons.1 mem with rfl | mem
    · exact absurd ahead still
    · exact ⟨f, mem, y, ahead, rest⟩
  ordered := h.ordered
  frame := h.frame

section examined

variable (h : Unbound s u es) (new : e ∉ es) (ahead : s.BoundAhead e)

include h

theorem released_setEngine : ∀ f ∈ e :: es, s.BoundAhead f → (u.setEngine e Engine.released).engine f = Engine.released := by
  intro f mem ahead
  by_cases same : f = e
  · subst same
    exact State.engine_setEngine_self _ _ _
  · rw [State.engine_setEngine_of_ne _ _ same]
    exact h.released f ((List.mem_cons.1 mem).resolve_left same) ahead

include ahead

theorem kept_setEngine : ∀ f, (f ∉ e :: es ∨ ¬ s.BoundAhead f) → (u.setEngine e Engine.released).engine f = s.engine f := by
  intro f out
  have other : f ≠ e := by
    rintro rfl
    exact out.elim (fun new => new List.mem_cons_self) (fun still => still ahead)
  rw [State.engine_setEngine_of_ne _ _ other]
  exact h.kept f (out.imp_left fun new old => new (List.mem_cons_of_mem _ old))

/-- The release of an engine whose slot is FREE. -/
theorem releaseFree (free : s.slot? (s.engine e).slot = none) : Unbound s (u.setEngine e Engine.released) (e :: es) where
  released := h.released_setEngine
  kept := h.kept_setEngine ahead
  untouched id apart := h.untouched id fun f mem => apart f (List.mem_cons_of_mem _ mem)
  slots := h.slots
  armed f mem ahead y slot := by
    rcases List.mem_cons.1 mem with rfl | mem
    · rw [free] at slot; cases slot
    · exact h.armed f mem ahead y slot
  sublist := h.sublist
  entries t := by
    refine (h.entries t).trans (or_congr_right ⟨fun ⟨f, mem, y, rest⟩ => ⟨f, List.mem_cons_of_mem _ mem, y, rest⟩,
      fun ⟨f, mem, y, ahead, slot, rest⟩ => ?_⟩)
    rcases List.mem_cons.1 mem with rfl | mem
    · rw [free] at slot; cases slot
    · exact ⟨f, mem, y, ahead, slot, rest⟩
  ordered := h.ordered
  frame := by
    have frame := h.frame
    generalize u.ast.slots = l, u.dsp.schedule = q, u.dsp.engines = v at frame
    subst frame
    rfl

/-- The return of an action to the firing schedule. -/
theorem giveBack {y y' : Slot} (slot : s.slot? (s.engine e).slot = some y) (same : { y' with state := .armed } = { y with state := SlotState.armed }) :
    Unbound s { (u.setSlot (s.engine e).slot { y' with state := .armed }).setEngine e Engine.released with
      dsp := { ((u.setSlot (s.engine e).slot { y' with state := .armed }).setEngine e Engine.released).dsp with
        schedule := insertTimed (s.unboundEntry e y) u.dsp.schedule } } (e :: es) where
  released := h.released_setEngine
  kept := h.kept_setEngine ahead
  untouched id apart :=
    (State.slot?_setSlot_of_ne u _ (apart e List.mem_cons_self ahead).symm).trans
      (h.untouched id fun f mem => apart f (List.mem_cons_of_mem _ mem))
  slots id := by
    by_cases own : id = (s.engine e).slot
    · subst own
      exact .inr ⟨y, slot, same ▸ State.slot?_setSlot_self u _ _⟩
    · have other := State.slot?_setSlot_of_ne u { y' with state := .armed } own
      exact (h.slots id).imp other.trans fun ⟨x, hx, armed⟩ => ⟨x, hx, other.trans armed⟩
  armed f mem ahead' x hx := by
    by_cases own : (s.engine f).slot = (s.engine e).slot
    · rw [own, slot] at hx
      cases hx
      rw [own]
      exact same ▸ State.slot?_setSlot_self u _ _
    · have old : f ∈ es := (List.mem_cons.1 mem).resolve_left fun hf => own (congrArg (fun f => (s.engine f).slot) hf)
      exact (State.slot?_setSlot_of_ne u _ own).trans (h.armed f old ahead' x hx)
  sublist := h.sublist.trans (sublist_insertTimed _ _)
  entries t := by
    refine mem_insertTimed.trans ⟨?_, ?_⟩
    · rintro (rfl | mem)
      · exact .inr ⟨e, List.mem_cons_self, y, ahead, slot, rfl⟩
      · exact ((h.entries t).1 mem).imp_right fun ⟨f, mem, rest⟩ => ⟨f, List.mem_cons_of_mem _ mem, rest⟩
    · rintro (old | ⟨f, mem, x, ahead', hx, rfl⟩)
      · exact .inr ((h.entries t).2 (.inl old))
      · rcases List.mem_cons.1 mem with rfl | mem
        · rw [slot] at hx
          cases hx
          exact .inl rfl
        · exact .inr ((h.entries _).2 (.inr ⟨f, mem, x, ahead', hx, rfl⟩))
  ordered old := insertTimed_ordered _ (h.ordered old)
  frame := by
    have frame := h.frame
    generalize u.ast.slots = l, u.dsp.schedule = q, u.dsp.engines = v at frame
    subst frame
    rfl

end examined

/-- One more engine is examined. -/
theorem unbind (h : Unbound s u es) (new : e ∉ es) : Unbound s (u.unbind e) (e :: es) := by
  by_cases ahead : s.BoundAhead e
  · have engine : u.engine e = s.engine e := h.kept e (.inl new)
    have ahead' := (h.boundAhead_iff new).2 ahead
    cases slot : s.slot? (s.engine e).slot with
    | none =>
      have free : u.slot? (u.engine e).slot = none := by
        rw [engine]
        rcases h.slots (s.engine e).slot with same | ⟨y, some, -⟩
        · exact same.trans slot
        · rw [slot] at some; cases some
      rw [State.unbind_of_none ahead' free]
      exact h.releaseFree ahead slot
    | some y =>
      obtain ⟨y', slot', same, seq⟩ : ∃ y', u.slot? (u.engine e).slot = some y'
          ∧ { y' with state := SlotState.armed } = { y with state := SlotState.armed } ∧ y'.seq = y.seq := by
        rw [engine]
        rcases h.slots (s.engine e).slot with same | ⟨x, hx, armed⟩
        · exact ⟨y, same.trans slot, rfl, rfl⟩
        · rw [slot] at hx
          cases hx
          exact ⟨_, armed, rfl, rfl⟩
      have entry : u.unboundEntry e y' = s.unboundEntry e y := by
        rw [State.unboundEntry, State.unboundEntry, engine, seq]
      rw [State.unbind_of_some ahead' slot', entry, engine]
      exact h.giveBack ahead slot same
  · rw [State.unbind_of_not_ahead (mt (h.boundAhead_iff new).1 ahead)]
    exact h.skip ahead

end Unbound

/-- All four engines have been examined. -/
theorem State.unbound_all (s : State) : Unbound s ((((s.unbind 0).unbind 1).unbind 2).unbind 3) [3, 2, 1, 0] :=
  ((((Unbound.refl s).unbind (by decide)).unbind (by decide)).unbind (by decide)).unbind (by decide)

theorem exec_dspStepEvent {s : State} {x : StepEvent} {rest : List StepEvent} (steps : s.dsp.steps = x :: rest)
    (alive : Lives s) :
    exec .dspStepEvent s = .next (({ s with dsp := { s.dsp with steps := rest } } : State).dspReact) := by
  show execDspStepEvent s = _
  rw [execDspStepEvent, steps]
  dsimp only
  rw [if_pos ((State.live_iff s).2 alive)]

section reaction

variable {s u t : State} {taken : List TimedEntry} {e : Fin 4}

theorem mem_engines (e : Fin 4) : e ∈ ([3, 2, 1, 0] : List (Fin 4)) := by fin_cases e <;> decide

variable (unbound : Unbound s u [3, 2, 1, 0]) (staged : StagedFrom u t taken)

include unbound staged

/-- What staging takes lies within the lead. -/
theorem StagedFrom.reached_of_unbound {h : TimedEntry} (mem : h ∈ taken) : h.time ≤ s.tb.value + 1000 * s.dsp.lead := by
  have reached := staged.reached h mem
  rw [unbound.frame] at reached
  exact reached

/-- No engine is left BOUND too early. -/
theorem bound_due_of_unbound (bound : (t.engine e).state = .bound) :
    (t.engine e).due ≤ s.tb.value + 1000 * s.dsp.lead := by
  by_cases idle : (u.engine e).state = .idle
  · rcases staged.bound e idle with same | ⟨h, mem, engine⟩
    · rw [same, idle] at bound; cases bound
    · rw [engine]
      exact staged.reached_of_unbound unbound mem
  · have same := staged.busy e idle
    by_cases ahead : s.BoundAhead e
    · exact absurd (unbound.released e (mem_engines e) ahead ▸ rfl) idle
    · rw [same, unbound.kept e (.inr ahead)] at bound ⊢
      exact Nat.not_lt.1 fun early => ahead ⟨bound, early⟩

/-- An engine that is busy and not BOUND too early stays. -/
theorem engine_of_unbound (busy : (s.engine e).state ≠ .idle) (still : ¬ s.BoundAhead e) : t.engine e = s.engine e := by
  have same := unbound.kept e (.inr still)
  exact (staged.busy e (same ▸ busy)).trans same

/-- Under the laws an action that has come back to the schedule is not staged again. -/
theorem armed_of_unbound (store : StoreLaw s) (placement : PlacementLaw s) {y : Slot} (ahead : s.BoundAhead e)
    (slot : s.slot? (s.engine e).slot = some y) :
    t.slot? (s.engine e).slot = some { y with state := .armed } ∧ s.unboundEntry e y ∈ t.dsp.schedule := by
  have placed := (placementLaw_iff ((storeLaw_iff s).1 store).rising).1 placement
  have notTaken {f : Fin 4} {x : Slot} (far : s.BoundAhead f) : s.unboundEntry f x ∉ taken := fun mem =>
    Nat.not_lt.2 (staged.reached_of_unbound unbound mem) far.2
  constructor
  · have armed := unbound.armed e (mem_engines e) ahead y slot
    rcases staged.slots (s.engine e).slot with same | ⟨h, mem, own, -⟩
    · exact same.trans armed
    · have entry : h ∈ u.dsp.schedule := staged.order ▸ List.mem_append_left _ mem
      rcases (unbound.entries h).1 entry with old | ⟨f, -, x, far, -, rfl⟩
      · obtain ⟨x, slot', state, -⟩ := placed.armed_of_schedule (t := h) old
        obtain ⟨x', slot'', -, -, state'⟩ := placed.seat_of_engine (e := e) rfl
          (show (s.engine e).state ≠ .idle by rw [ahead.1]; decide)
        rw [own] at slot'
        have same : x = x' := Option.some.inj (slot'.symm.trans slot'')
        rw [← same, state] at state'
        rcases state' with ⟨state', -⟩ | ⟨state', -⟩ <;> cases state'
      · exact absurd mem (notTaken far)
  · have entry : s.unboundEntry e y ∈ u.dsp.schedule :=
      (unbound.entries _).2 (.inr ⟨e, mem_engines e, y, ahead, slot, rfl⟩)
    rw [staged.order] at entry
    exact (List.mem_append.1 entry).resolve_left (notTaken ahead)

/-- Nothing but the store, the schedule and the engines changes. -/
theorem frame_of_unbound : t = { s with
    ast := { s.ast with slots := t.ast.slots }
    dsp := { s.dsp with schedule := t.dsp.schedule, engines := t.dsp.engines } } := by
  have frame := staged.frame
  have frame' := unbound.frame
  generalize t.ast.slots = l, t.dsp.schedule = q, t.dsp.engines = v at frame
  generalize u.ast.slots = l', u.dsp.schedule = q', u.dsp.engines = v' at frame'
  subst frame frame'
  rfl

end reaction

/-- Settles O30: what DSP has unbound (`Unbound`), and what it then stages (`StagedFrom`). -/
theorem stepEventUnbinds : Obligations.StepEventUnbinds := by
  refine ⟨fun s x rest ahead steps alive ahead_iff => ?reacts, fun s x rest steps dead => ?dropped, fun s steps => ?idle⟩
  case reacts =>
    obtain rfl : ahead = s.BoundAhead := funext fun e => propext (ahead_iff e)
    have unbound := ({ s with dsp := { s.dsp with steps := rest } } : State).unbound_all
    have run := exec_dspStepEvent steps alive
    rw [State.dspReact] at run
    generalize ((((({ s with dsp := { s.dsp with steps := rest } } : State).unbind 0).unbind 1).unbind 2).unbind 3) = u
      at unbound run
    obtain ⟨taken, staged⟩ := u.stageAll_stagedFrom
    have frame := frame_of_unbound unbound staged
    have due := fun e => bound_due_of_unbound (e := e) unbound staged
    have same := fun e => engine_of_unbound (e := e) unbound staged
    have armed := fun e => armed_of_unbound (e := e) unbound staged
    refine ⟨u, u.stageAll, taken, run, staged, by rw [frame], fun e => unbound.released e (mem_engines e),
      fun e still => unbound.kept e (.inr still), fun id apart => unbound.untouched id fun e _ => apart e, unbound.sublist,
      fun h => (unbound.entries h).trans (or_congr_right
        ⟨fun ⟨e, _, y, far, slot, same⟩ => ⟨e, y, far, slot, same⟩,
          fun ⟨e, y, far, slot, same⟩ => ⟨e, mem_engines e, y, far, slot, same⟩⟩),
      unbound.ordered, due, fun e bound reached => ?bound,
      fun e busy => ?running, fun store placement e y far slot =>
        ⟨unbound.armed e (mem_engines e) far y slot, armed e store placement far slot⟩, ?_⟩
    case bound =>
      exact same e (fun idle => by cases bound.symm.trans idle)
        fun far => Nat.not_lt.2 reached far.2
    case running =>
      refine same e ?_ fun far => ?_
      · intro (idle : (s.engine e).state = .idle)
        rw [idle] at busy
        rcases busy with busy | busy <;> cases busy
      · rw [show (s.engine e).state = .bound from far.1] at busy
        rcases busy with busy | busy <;> cases busy
    · rw [frame]
      exact ⟨rfl, rfl, rfl, rfl, rfl, rfl, rfl, rfl, rfl, rfl, rfl⟩
  case dropped =>
    show execDspStepEvent s = _
    rw [execDspStepEvent, steps]
    dsimp only
    rw [if_neg (fun live => dead ((State.live_iff s).1 live))]
  case idle =>
    show execDspStepEvent s = _
    rw [execDspStepEvent, steps]

end Sys2Proof.Machine

/-! Posting a completion (R181), and the end of a firing (R78 to R86). -/

namespace Sys2Proof.Machine

open Sys2Proof

/-! ## Posting a completion that is written (R177, R181) -/

/-- From `s` to `t`, one completion has been written to a ring: its entry is handed over with the notification that falls
due, and only that ring and HP's writes change. -/
structure Wrote (s t : State) (q : Fin 16) (c : Completion) : Prop where
  handsOver : HandsOver s t ((s.cq q).entryWrite q c :: (s.cq q).afterWrite.notices q)
  cu : t.cu = s.cu.set q (s.cq q).afterWrite.settled
  frame : CompletionFrame s t

theorem Wrote.cq_of_ne {s t : State} {q k : Fin 16} {c : Completion} (h : Wrote s t q c) (hk : k ≠ q) : t.cq k = s.cq k := by
  rw [State.cq, h.cu]
  exact State.cq_setCq_of_ne s _ hk

theorem Wrote.cq_self {s t : State} {q : Fin 16} {c : Completion} (h : Wrote s t q c) :
    t.cq q = (s.cq q).afterWrite.settled := by
  rw [State.cq, h.cu]
  exact State.cq_setCq_self s _ _

theorem wrote_writeEntry (s : State) (q : Fin 16) (c : Completion) : Wrote s (s.writeEntry q c) q c :=
  ⟨.of_hp (State.hp_writeEntry s q c), State.cu_writeEntry s q c, frame_writeEntry s q c⟩

theorem State.postCompletion_of_room {s : State} {q : Fin 16} (c : Completion) (alive : Lives s)
    (active : (s.cq q).state = .active) (empty : (s.cq q).outbox = []) (room : 1 ≤ (s.cq q).room) :
    s.postCompletion q c = s.writeEntry q c := by
  rw [State.postCompletion, (State.live_iff s).2 alive, active, empty, decide_eq_true room]
  rfl

/-! ## What the end of a firing reports (R79 to R86) -/

section report

variable (x : Slot) (due : Nat) (late : Bool) (st : Status) (now : Nat)

/-- The instants that the end of a firing passes over, as far as they count (R81). -/
def Slot.passed (x : Slot) (k : Nat) : Nat :=
  if x.period = 0 then 0 else if x.count = 0 then k - 1 else min (k - 1) (x.count - (x.used + 1))

/-- The instants used once a firing has ended (R82). -/
def Slot.usedAfter (x : Slot) (k : Nat) : Nat := if x.count = 0 then x.used else x.used + 1 + x.passed k

/-- The action ends with this firing (R79, R83). -/
def Slot.EndsWith (x : Slot) (st : Status) (k next : Nat) : Prop :=
  x.period = 0 ∨ st = .lateAborted ∨ (st.isFault = true ∧ x.faultPolicy = .endAction) ∨ x.endRequested = true
    ∨ (x.count ≠ 0 ∧ x.count ≤ x.usedAfter k) ∨ 2 ^ 63 - 1 < next

theorem endReport_added :
    (if x.count == 0 then (if x.recurring then nextStep due x.period now - 1 else 0)
      else min (if x.recurring then nextStep due x.period now - 1 else 0) (x.count - (x.used + 1)))
      = x.passed (nextStep due x.period now) := by
  unfold Slot.passed Slot.recurring
  by_cases period : x.period = 0
  · simp [period]
  · simp [period]

theorem endReport_ends_iff : (endReport x due late st now).ends = true
    ↔ x.EndsWith st (nextStep due x.period now) (due + nextStep due x.period now * x.period) := by
  unfold endReport
  dsimp only
  rw [endReport_added]
  simp only [Slot.EndsWith, Slot.usedAfter, Slot.recurring, Bool.or_eq_true, Bool.and_eq_true, Bool.not_eq_true',
    bne_eq_false_iff_eq, bne_iff_ne, beq_iff_eq, decide_eq_true_eq, or_assoc]
  exact Iff.rfl

/-- A firing was withheld by FINAL_AND_FAULTS if the action went on (R84). -/
def Slot.Withholds (x : Slot) (st : Status) : Prop := x.completionMode = .finalAndFaults ∧ (st = .ok ∨ st = .lateSkipped)

theorem endReport_of_ends (h : (endReport x due late st now).ends = true) : endReport x due late st now =
    { ends := true, nextDue := due + nextStep due x.period now * x.period, ended := (x.ended + 1) % 2 ^ 32
      used := x.usedAfter (nextStep due x.period now), missed := 0, lateCarry := false, posted := true
      reportedMissed := raise x.missed (x.passed (nextStep due x.period now))
      late := (late && st != .lateSkipped && st != .lateAborted) || x.lateCarry, cancelled := x.endRequested } := by
  unfold endReport at h ⊢
  dsimp only at h ⊢
  rw [endReport_added] at h ⊢
  rw [h]
  simp [Slot.usedAfter, Bool.and_assoc]

theorem endReport_of_goesOn (h : (endReport x due late st now).ends = false) (reports : ¬ x.Withholds st) :
    endReport x due late st now =
    { ends := false, nextDue := due + nextStep due x.period now * x.period, ended := (x.ended + 1) % 2 ^ 32
      used := x.usedAfter (nextStep due x.period now), missed := raise 0 (x.passed (nextStep due x.period now))
      lateCarry := false, posted := true, reportedMissed := x.missed
      late := (late && st != .lateSkipped) || x.lateCarry, cancelled := false } := by
  have posted : (x.completionMode == .finalAndFaults && !false && (st == .ok || st == .lateSkipped)) = false := by
    rw [← Bool.not_eq_true]
    simpa [Slot.Withholds] using reports
  have ran : (st != .lateAborted) = true :=
    bne_iff_ne.2 fun aborted => Bool.false_ne_true (h.symm.trans ((endReport_ends_iff x due late st now).2 (.inr (.inl aborted))))
  unfold endReport at h ⊢
  dsimp only at h ⊢
  rw [endReport_added] at h ⊢
  rw [h, posted, ran]
  simp [Slot.usedAfter]

theorem endReport_of_withheld (h : (endReport x due late st now).ends = false) (withheld : x.Withholds st) :
    endReport x due late st now =
    { ends := false, nextDue := due + nextStep due x.period now * x.period, ended := (x.ended + 1) % 2 ^ 32
      used := x.usedAfter (nextStep due x.period now), missed := raise x.missed (x.passed (nextStep due x.period now))
      lateCarry := x.lateCarry || late, posted := false, reportedMissed := x.missed
      late := (late && (st != .lateSkipped && st != .lateAborted)) || x.lateCarry, cancelled := false } := by
  have held : (x.completionMode == .finalAndFaults && !false && (st == .ok || st == .lateSkipped)) = true := by
    simpa [Slot.Withholds] using withheld
  unfold endReport at h ⊢
  dsimp only at h ⊢
  rw [endReport_added] at h ⊢
  rw [h, held]
  simp [Slot.usedAfter]

end report

/-! ## The end of a firing at the store and the schedule (R78, R79, R83) -/

section ended

variable (s : State) (e : Fin 4) (st : Status) (i : Nat) (x : Slot)

/-- The k of R80 at the end of the firing of an engine, and the due time that it gives. -/
def State.endStep : Nat := nextStep (s.engine e).due x.period s.tb.value

def State.endDue : Nat := (s.engine e).due + s.endStep e x * x.period

/-- The FINAL fire completion of an action (R83 to R85). -/
def State.finalFire : Completion :=
  { kind := .fire, status := st, source := x.ring.val
    late := ((s.engine e).late && st != .lateSkipped && st != .lateAborted) || x.lateCarry
    final := true, cancelled := x.endRequested, opIndex := if st.isFault then i else 0
    aux16 := min (x.missed + x.passed (s.endStep e x)) 65535, tag := x.tag, aux32 := (x.ended + 1) % 2 ^ 32
    time := (s.engine e).start, value := x.capture }

/-- The fire completion of a firing after which the action goes on (R84, R85). -/
def State.fire : Completion :=
  { kind := .fire, status := st, source := x.ring.val
    late := ((s.engine e).late && st != .lateSkipped) || x.lateCarry
    final := false, cancelled := false, opIndex := if st.isFault then i else 0
    aux16 := x.missed, tag := x.tag, aux32 := (x.ended + 1) % 2 ^ 32, time := (s.engine e).start, value := x.capture }

/-- The slot of an action that goes on, before it enters the schedule again (R81, R82, R86). -/
def State.goesOn (missed : Nat) (carry : Bool) : Slot :=
  { x with ended := (x.ended + 1) % 2 ^ 32, used := x.usedAfter (s.endStep e x), missed := missed, lateCarry := carry }

/-- The end of a firing, up to the staging of the next head. -/
def State.instanceEnded : State :=
  let r := endReport x (s.engine e).due (s.engine e).late st s.tb.value
  let t := if r.posted then s.postCompletion (s.sq x.ring).cq (fireCompletion x (s.engine e) st i r) else s
  if r.ends then (t.setEngine e Engine.released).endSlot (s.engine e).slot x.ring
  else (t.setEngine e Engine.released).enterSchedule (s.engine e).slot (x.continued r) r.nextDue

variable {s e st i x}

theorem State.endInstance_eq (slot : s.slot? (s.engine e).slot = some x) :
    s.endInstance e st i = (s.instanceEnded e st i x).stageHead := by
  rw [State.endInstance, slot]
  rfl

theorem State.instanceEnded_of_ends (h : x.EndsWith st (s.endStep e x) (s.endDue e x)) :
    s.instanceEnded e st i x = ((s.postCompletion (s.sq x.ring).cq (s.finalFire e st i x)).setEngine e
      Engine.released).endSlot (s.engine e).slot x.ring := by
  rw [State.instanceEnded, endReport_of_ends _ _ _ _ _ ((endReport_ends_iff _ _ _ _ _).2 h)]
  rfl

theorem State.instanceEnded_of_goesOn (h : ¬ x.EndsWith st (s.endStep e x) (s.endDue e x)) (reports : ¬ x.Withholds st) :
    s.instanceEnded e st i x = ((s.postCompletion (s.sq x.ring).cq (s.fire e st i x)).setEngine e
      Engine.released).enterSchedule (s.engine e).slot
        (s.goesOn e x (min (x.passed (s.endStep e x)) 65535) false) (s.endDue e x) := by
  rw [State.instanceEnded, endReport_of_goesOn _ _ _ _ _ (Bool.eq_false_iff.2 (mt (endReport_ends_iff _ _ _ _ _).1 h)) reports,
    raise, Nat.zero_add]
  rfl

theorem State.instanceEnded_of_withheld (h : ¬ x.EndsWith st (s.endStep e x) (s.endDue e x)) (withheld : x.Withholds st) :
    s.instanceEnded e st i x = (s.setEngine e Engine.released).enterSchedule (s.engine e).slot
      (s.goesOn e x (min (x.missed + x.passed (s.endStep e x)) 65535) (x.lateCarry || (s.engine e).late))
      (s.endDue e x) := by
  rw [State.instanceEnded,
    endReport_of_withheld _ _ _ _ _ (Bool.eq_false_iff.2 (mt (endReport_ends_iff _ _ _ _ _).1 h)) withheld]
  rfl

end ended

/-- What the end of a firing leaves alone, but for the completion that it posts to ring `q`: engines and slots of others,
the other rings, and all that is not of dispatch. -/
structure EndFrame (s u : State) (e : Fin 4) (q : Fin 16) : Prop where
  released : u.engine e = Engine.released
  engines : ∀ f ≠ e, u.engine f = s.engine f
  slots : ∀ k ≠ (s.engine e).slot, u.slot? k = s.slot? k
  rings : ∀ k ≠ q, u.cq k = s.cq k
  rqe : u.rqe = s.rqe
  tb : u.tb = s.tb
  wtb : u.wtb = s.wtb
  quotas : u.ast.quotas = s.ast.quotas
  outputs : u.lnu.outputs = s.lnu.outputs
  inputs : u.lnu.inputs = s.lnu.inputs
  hold : u.dsp.hold = s.dsp.hold
  lead : u.dsp.lead = s.dsp.lead
  budget : u.dsp.budget = s.dsp.budget

section endFrame

variable {s w : State} {e : Fin 4} {q : Fin 16} (frame : CompletionFrame s w) (rings : ∀ k ≠ q, w.cq k = s.cq k)

include frame

theorem CompletionFrame.engine (f : Fin 4) : w.engine f = s.engine f := by
  rw [State.engine, frame.dsp]
  rfl

theorem CompletionFrame.slot? (k : Nat) : w.slot? k = s.slot? k := by
  rw [State.slot?, frame.ast]
  rfl

theorem CompletionFrame.sq (r : Fin 16) : w.sq r = s.sq r := by
  rw [State.sq, frame.rqe]
  rfl

include rings

theorem endFrame_free : EndFrame s ((w.setEngine e Engine.released).freeSlot (s.engine e).slot) e q where
  released := State.engine_setEngine_self _ _ _
  engines f hf := (State.engine_setEngine_of_ne w _ hf).trans (frame.engine f)
  slots k hk := by
    rw [State.slot?_freeSlot, if_neg hk]
    exact frame.slot? k
  rings := rings
  rqe := frame.rqe
  tb := frame.tb
  wtb := frame.wtb
  quotas := show w.ast.quotas = s.ast.quotas by rw [frame.ast]
  outputs := show w.lnu.outputs = s.lnu.outputs by rw [frame.lnu]
  inputs := show w.lnu.inputs = s.lnu.inputs by rw [frame.lnu]
  hold := show w.dsp.hold = s.dsp.hold by rw [frame.dsp]
  lead := show w.dsp.lead = s.dsp.lead by rw [frame.dsp]
  budget := show w.dsp.budget = s.dsp.budget by rw [frame.dsp]

theorem endFrame_enter (y : Slot) (due : Nat) :
    EndFrame s ((w.setEngine e Engine.released).enterSchedule (s.engine e).slot y due) e q where
  released := State.engine_setEngine_self _ _ _
  engines f hf := (State.engine_setEngine_of_ne w _ hf).trans (frame.engine f)
  slots k hk := by
    rw [State.slot?_enterSchedule, if_neg hk]
    exact frame.slot? k
  rings := rings
  rqe := frame.rqe
  tb := frame.tb
  wtb := frame.wtb
  quotas := show w.ast.quotas = s.ast.quotas by rw [frame.ast]
  outputs := show w.lnu.outputs = s.lnu.outputs by rw [frame.lnu]
  inputs := show w.lnu.inputs = s.lnu.inputs by rw [frame.lnu]
  hold := show w.dsp.hold = s.dsp.hold by rw [frame.dsp]
  lead := show w.dsp.lead = s.dsp.lead by rw [frame.dsp]
  budget := show w.dsp.budget = s.dsp.budget by rw [frame.dsp]

end endFrame

/-- An action that ends is reported, and its slot is FREE. -/
theorem instanceEnded_ends {s : State} {e : Fin 4} {st : Status} {i : Nat} {x : Slot} {q : Fin 16} (alive : Lives s)
    (hq : q = (s.sq x.ring).cq) (active : (s.cq q).state = .active) (empty : (s.cq q).outbox = []) (room : 1 ≤ (s.cq q).room)
    (h : x.EndsWith st (s.endStep e x) (s.endDue e x)) :
    ∃ v, s.instanceEnded e st i x = v.retireIfDone x.ring ∧ EndFrame s v e q ∧ v.slot? (s.engine e).slot = none
      ∧ HandsOver s v ((s.cq q).entryWrite q (s.finalFire e st i x) :: (s.cq q).afterWrite.notices q) := by
  subst hq
  have wrote := wrote_writeEntry s (s.sq x.ring).cq (s.finalFire e st i x)
  rw [State.instanceEnded_of_ends h, State.postCompletion_of_room _ alive active empty room]
  refine ⟨_, rfl, endFrame_free wrote.frame (fun k hk => wrote.cq_of_ne hk), ?_, .of_hp wrote.handsOver.1⟩
  rw [State.slot?_freeSlot, if_pos rfl]

/-- An action that goes on is re-armed under a new number. -/
theorem instanceEnded_reArmed {s u w : State} {e : Fin 4} {q : Fin 16} {y : Slot} {due : Nat} (frame : CompletionFrame s w)
    (rings : ∀ k ≠ q, w.cq k = s.cq k)
    (hu : u = (w.setEngine e Engine.released).enterSchedule (s.engine e).slot y due) :
    EndFrame s u e q ∧ u.slot? (s.engine e).slot = some { y with state := .armed, due := due, seq := s.ast.seq }
      ∧ ({ slot := (s.engine e).slot, time := due, seq := s.ast.seq } : TimedEntry) ∈ u.dsp.schedule
      ∧ u.ast.seq = s.ast.seq + 1 ∧ u.hp = w.hp ∧ u.cu = w.cu := by
  subst hu
  have seq : (w.setEngine e Engine.released).ast.seq = s.ast.seq := congrArg ActionStore.seq frame.ast
  refine ⟨endFrame_enter frame rings y due, ?_, ?_, congrArg (· + 1) seq, rfl, rfl⟩
  · rw [State.slot?_enterSchedule, if_pos rfl, seq]
  · exact mem_insertTimed.2 (.inl (by rw [seq]))

/-- An action that goes on is re-armed with the next due time, and reported unless FINAL_AND_FAULTS withholds it. -/
theorem instanceEnded_goesOn {s : State} {e : Fin 4} {st : Status} {i : Nat} {x : Slot} {q : Fin 16} (alive : Lives s)
    (hq : q = (s.sq x.ring).cq) (active : (s.cq q).state = .active) (empty : (s.cq q).outbox = []) (room : 1 ≤ (s.cq q).room)
    (h : ¬ x.EndsWith st (s.endStep e x) (s.endDue e x)) :
    EndFrame s (s.instanceEnded e st i x) e q
    ∧ ({ slot := (s.engine e).slot, time := s.endDue e x, seq := s.ast.seq } : TimedEntry)
        ∈ (s.instanceEnded e st i x).dsp.schedule
    ∧ (s.instanceEnded e st i x).ast.seq = s.ast.seq + 1
    ∧ (¬ x.Withholds st →
      (s.instanceEnded e st i x).slot? (s.engine e).slot = some
        { s.goesOn e x (min (x.passed (s.endStep e x)) 65535) false with
          state := .armed, due := s.endDue e x, seq := s.ast.seq }
      ∧ HandsOver s (s.instanceEnded e st i x)
          ((s.cq q).entryWrite q (s.fire e st i x) :: (s.cq q).afterWrite.notices q))
    ∧ (x.Withholds st →
      (s.instanceEnded e st i x).slot? (s.engine e).slot = some
        { s.goesOn e x (min (x.missed + x.passed (s.endStep e x)) 65535) (x.lateCarry || (s.engine e).late) with
          state := .armed, due := s.endDue e x, seq := s.ast.seq }
      ∧ HandsOver s (s.instanceEnded e st i x) [] ∧ (s.instanceEnded e st i x).cu = s.cu) := by
  subst hq
  by_cases withheld : x.Withholds st
  · obtain ⟨frame, slot, entry, seq, hp, cu⟩ :=
      instanceEnded_reArmed (q := (s.sq x.ring).cq) (.refl s) (fun _ _ => rfl) (State.instanceEnded_of_withheld (i := i) h withheld)
    exact ⟨frame, entry, seq, fun reports => absurd withheld reports, fun _ => ⟨slot, .of_hp hp, cu⟩⟩
  · have wrote := wrote_writeEntry s (s.sq x.ring).cq (s.fire e st i x)
    have same := State.instanceEnded_of_goesOn (i := i) h withheld
    rw [State.postCompletion_of_room _ alive active empty room] at same
    obtain ⟨frame, slot, entry, seq, hp, cu⟩ := instanceEnded_reArmed wrote.frame (fun k hk => wrote.cq_of_ne hk) same
    exact ⟨frame, entry, seq, fun _ => ⟨slot, .of_hp (hp.trans wrote.handsOver.1)⟩, fun held => absurd held withheld⟩

/-- Settles O31. -/
theorem instanceEndReportsAndReArms : Obligations.InstanceEndReportsAndReArms := by
  refine ⟨fun s e st i x q alive slot notDeleting hq active empty room => ?keeps,
    fun s e st i x q k n added used alive slot deleting hq active empty room hk hn hadded hused ends => ?retires⟩
  case keeps =>
    refine ⟨s.instanceEnded e st i x, State.endInstance_eq slot, ?_⟩
    have ended (h : x.EndsWith st (s.endStep e x) (s.endDue e x)) :
        EndFrame s (s.instanceEnded e st i x) e q ∧ (s.instanceEnded e st i x).slot? (s.engine e).slot = none
          ∧ HandsOver s (s.instanceEnded e st i x)
            ((s.cq q).entryWrite q (s.finalFire e st i x) :: (s.cq q).afterWrite.notices q) := by
      obtain ⟨v, same, frame, rest⟩ := instanceEnded_ends (i := i) alive hq active empty room h
      rw [State.retireIfDone_of_not_deleting v x.ring (by rw [State.sq, frame.rqe]; exact notDeleting)] at same
      rw [same]
      exact ⟨frame, rest⟩
    have goesOn := instanceEnded_goesOn (i := i) (st := st) (e := e) alive hq active empty room
    have frame : EndFrame s (s.instanceEnded e st i x) e q :=
      (Classical.em (x.EndsWith st (s.endStep e x) (s.endDue e x))).elim (fun h => (ended h).1) (fun h => (goesOn h).1)
    refine ⟨frame.released, frame.engines, frame.slots, frame.rings, frame.rqe, frame.tb, frame.wtb, frame.quotas,
      frame.outputs, frame.inputs, frame.hold, frame.lead, frame.budget, fun single => ?_,
      fun k n added used ends withheld recurring hk hn hadded hused ends_iff withheld_iff => ?_⟩
    · have none : x.passed (s.endStep e x) = 0 := if_pos single
      obtain ⟨-, free, handed⟩ := ended (.inl single)
      rw [State.finalFire, none] at handed
      exact ⟨free, handed⟩
    · have passed : added = x.passed k := by rw [hadded, Slot.passed, if_neg recurring]
      rw [passed] at hused
      have same : ends ↔ x.EndsWith st (s.endStep e x) (s.endDue e x) := by
        rw [ends_iff, hused, hn, hk]
        exact (or_iff_right recurring).symm
      subst hused hn hk passed
      rw [same, withheld_iff]
      exact ⟨fun h => (ended h).2, fun h => ⟨(goesOn h).2.1, (goesOn h).2.2.1⟩, fun h => (goesOn h).2.2.2.1,
        fun h => (goesOn h).2.2.2.2⟩
  case retires =>
    have passed : added = x.passed k := hadded
    rw [passed] at hused
    subst hused hn hk
    obtain ⟨v, same, frame, free, handed⟩ := instanceEnded_ends (i := i) alive hq active empty room ends
    rw [State.finalFire, State.endStep, ← passed] at handed
    refine ⟨s.instanceEnded e st i x, v, State.endInstance_eq slot, free, frame.slots, frame.released, frame.engines,
      frame.rqe, handed, ?_⟩
    rw [same]
    exact State.retireIfDone_deleting (by rw [State.sq, frame.rqe]; exact deleting)

end Sys2Proof.Machine

/-! Output line commands (R132, R133), CONFIGURE INPUT LINE (R117), and the gate calendar (R124 to R130). -/

namespace Sys2Proof.Machine

open Sys2Proof

/-! ## GRANT LINE and REVOKE LINE (R132, R133) -/

theorem outLineOf_eq_none_iff {n : Nat} : outLineOf n = none ↔ n = 0 ∨ 4 < n := by
  unfold outLineOf
  split <;> simp_all
  omega

theorem levelOf_eq_none_iff {n : Nat} : levelOf n = none ↔ n = 0 ∨ 2 < n := by
  unfold levelOf
  split <;> simp_all
  omega

/-- What GRANT LINE reports of a line. -/
def State.lineResult (s : State) (l : Fin 4) (st : Status) : Result :=
  { status := st, time := s.tb.value, aux32 := (s.output l).owner.getD 0, value := BitVec.ofNat 64 (s.output l).level.code }

section outputs

variable {s : State} {c : Fin 8} {e : Entry} {l : Fin 4}

theorem exec_grantLine_noLine (h : AdminWaits s c .grantLine e) (line : outLineOf (bytesOf e 1 1) = none) :
    exec (.grantLine c) s = .next (s.completeRequest c 0 { status := .badField, time := s.tb.value }) := by
  show execGrantLine c s = _
  rw [execGrantLine, h.requestOf]
  dsimp only
  rw [line]
  rfl

theorem exec_grantLine_noLevel (h : AdminWaits s c .grantLine e) (line : outLineOf (bytesOf e 1 1) = some l)
    (level : levelOf (bytesOf e 3 1) = none) :
    exec (.grantLine c) s = .next (s.completeRequest c 0 (s.lineResult l .badField)) := by
  show execGrantLine c s = _
  rw [execGrantLine, h.requestOf]
  dsimp only
  rw [line, level]
  rfl

theorem exec_grantLine {safe : Level} (h : AdminWaits s c .grantLine e) (line : outLineOf (bytesOf e 1 1) = some l)
    (level : levelOf (bytesOf e 3 1) = some safe) :
    exec (.grantLine c) s = .next
      (if bytesOf e 2 1 < 1 ∨ 15 < bytesOf e 2 1 then s.completeRequest c 0 (s.lineResult l .badField)
      else if (s.output l).owner.isSome then s.completeRequest c 0 (s.lineResult l .inUse)
      else (s.setOutput l { s.output l with owner := some (bytesOf e 2 1), safe := safe }).completeRequest c 0
        (s.lineResult l .ok)) := by
  show execGrantLine c s = _
  rw [execGrantLine, h.requestOf]
  dsimp only
  rw [line, level]
  rfl

theorem exec_revokeLine_noLine (h : AdminWaits s c .revokeLine e) (line : outLineOf (bytesOf e 1 1) = none) :
    exec (.revokeLine c) s = .next (s.completeRequest c 0 { status := .badField, time := s.tb.value }) := by
  show execRevokeLine c s = _
  rw [execRevokeLine, h.requestOf]
  dsimp only
  rw [line]
  rfl

theorem exec_revokeLine (h : AdminWaits s c .revokeLine e) (line : outLineOf (bytesOf e 1 1) = some l) :
    exec (.revokeLine c) s = .next
      ((s.setOutput l { s.output l with owner := none, level := (s.output l).safe }).completeRequest c 0
        (s.lineResult l .ok)) := by
  show execRevokeLine c s = _
  rw [execRevokeLine, h.requestOf]
  dsimp only
  rw [line]
  rfl

end outputs

/-- Settles O42. -/
theorem outputLineCommands : Obligations.OutputLineCommands := by
  constructor
  · intro s c e waits
    obtain ⟨t, run, -⟩ := commandsKeepTheQueue (.grantLine c) s
    refine ⟨t, run, fun none => ?_, fun l line => ⟨fun bad => ?_, fun safe low high level => ⟨fun owned => ?_, fun free => ?_⟩⟩⟩
    · exact next_unique run (exec_grantLine_noLine waits (outLineOf_eq_none_iff.2 none)) ▸ waits.answered _ _ rfl rfl
    · have line := outLineOf_eq_some_iff.2 line
      cases level : levelOf (bytesOf e 3 1) with
      | none => exact next_unique run (exec_grantLine_noLevel waits line level) ▸ waits.answered _ _ rfl rfl
      | some safe =>
        have tenant : bytesOf e 2 1 < 1 ∨ 15 < bytesOf e 2 1 := by
          have known : ¬ (bytesOf e 3 1 = 0 ∨ 2 < bytesOf e 3 1) := fun h => by
            rw [levelOf_eq_none_iff.2 h] at level
            cases level
          omega
        have same := next_unique run (exec_grantLine waits line level)
        rw [if_pos tenant] at same
        exact same ▸ waits.answered _ _ rfl rfl
    · have same := next_unique run (exec_grantLine waits (outLineOf_eq_some_iff.2 line) (levelOf_eq_some_iff.2 level))
      rw [if_neg (by omega), if_pos owned] at same
      exact same ▸ waits.answered _ _ rfl rfl
    · have same := next_unique run (exec_grantLine waits (outLineOf_eq_some_iff.2 line) (levelOf_eq_some_iff.2 level))
      rw [if_neg (by omega), if_neg (by rw [free]; decide), State.lineResult, free] at same
      exact same ▸ waits.answered _ _ rfl rfl
  · intro s c e waits
    obtain ⟨t, run, -⟩ := commandsKeepTheQueue (.revokeLine c) s
    refine ⟨t, run, fun none => ?_, fun l line => ?_⟩
    · exact next_unique run (exec_revokeLine_noLine waits (outLineOf_eq_none_iff.2 none)) ▸ waits.answered _ _ rfl rfl
    · exact next_unique run (exec_revokeLine waits (outLineOf_eq_some_iff.2 line)) ▸ waits.answered _ _ rfl rfl

/-! ## CONFIGURE INPUT LINE (R117) -/

theorem edgeSelectOf_eq_none_iff {n : Nat} : edgeSelectOf n = none ↔ n = 0 ∨ 3 < n := by
  unfold edgeSelectOf
  split <;> simp_all
  omega

section config

variable {e : Entry}

/-- Checks 1 and 2 of R117 on the fields of an entry. -/
def ConfigFails (e : Entry) : Prop :=
  1 < bytesOf e 2 1 ∨ 3 < bytesOf e 3 1 ∨ 1000000 < bytesOf e 8 4 ∨ (bytesOf e 3 1 = 0 ∧ bytesOf e 4 1 ≠ 0)
    ∨ (bytesOf e 3 1 ≠ 0 ∧ 15 < bytesOf e 4 1)

theorem inputConfigOf_of_fails (h : ConfigFails e) : inputConfigOf e = none := by
  unfold inputConfigOf
  dsimp only
  split
  · rfl
  · rename_i small
    unfold Config.maxSpacing at small
    unfold ConfigFails at h
    split
    · rw [if_neg (by omega)]
    · split
      · rfl
      · rename_i k known
        have notNone := mt edgeSelectOf_eq_none_iff.2 (by rw [known]; nofun)
        rw [if_neg (by omega)]

theorem inputConfigOf_of_reports {k : EdgeSelect} (enabled : bytesOf e 2 1 ≤ 1) (spacing : bytesOf e 8 4 ≤ 1000000)
    (select : edgeSelectOf (bytesOf e 3 1) = some k) (ring : bytesOf e 4 1 < 16) : inputConfigOf e =
      some { enabled := bytesOf e 2 1 == 1, report := some (k, bytesOf e 4 1), spacing := bytesOf e 8 4 } := by
  have known : bytesOf e 3 1 ≠ 0 := fun zero => by
    rw [edgeSelectOf_eq_none_iff.2 (.inl zero)] at select
    cases select
  unfold inputConfigOf
  dsimp only
  rw [if_neg (by unfold Config.maxSpacing; omega), if_neg known, select]
  dsimp only
  rw [if_pos ring]

theorem inputConfigOf_of_quiet (enabled : bytesOf e 2 1 ≤ 1) (spacing : bytesOf e 8 4 ≤ 1000000)
    (select : bytesOf e 3 1 = 0) (ring : bytesOf e 4 1 = 0) : inputConfigOf e =
      some { enabled := bytesOf e 2 1 == 1, report := none, spacing := bytesOf e 8 4 } := by
  unfold inputConfigOf
  dsimp only
  rw [if_neg (by unfold Config.maxSpacing; omega), if_pos select, if_pos ring]

end config

section configure

variable {s : State} {c : Fin 8} {e : Entry} {l : Fin 4} {f : InputConfig}

theorem exec_configureInput_noLine (h : AdminWaits s c .configureInput e) (line : finOf 4 (bytesOf e 1 1) = none) :
    exec (.configureInputLine c) s = .next (s.completeRequest c 0 { status := .badField, time := s.tb.value }) := by
  show execConfigureInputLine c s = _
  rw [execConfigureInputLine, h.requestOf]
  dsimp only
  rw [line]
  rfl

theorem exec_configureInput_bad (h : AdminWaits s c .configureInput e) (line : finOf 4 (bytesOf e 1 1) = some l)
    (config : inputConfigOf e = none) :
    exec (.configureInputLine c) s = .next (s.completeRequest c 0 (inputResult .badField s.tb.value (s.input l))) := by
  show execConfigureInputLine c s = _
  rw [execConfigureInputLine, h.requestOf]
  dsimp only
  rw [line]
  dsimp only
  rw [config]
  rfl

theorem exec_configureInput_quiet (h : AdminWaits s c .configureInput e) (line : finOf 4 (bytesOf e 1 1) = some l)
    (config : inputConfigOf e = some f) (report : f.report = none) :
    exec (.configureInputLine c) s = .next
      ((s.setInput l ((s.input l).configured f.enabled none none f.spacing)).completeRequest c 0
        (inputResult .ok s.tb.value (s.input l))) := by
  show execConfigureInputLine c s = _
  rw [execConfigureInputLine, h.requestOf]
  dsimp only
  rw [line]
  dsimp only
  rw [config]
  dsimp only
  rw [report]
  rfl

theorem exec_configureInput_reports {k : EdgeSelect} {q : Fin 16} (h : AdminWaits s c .configureInput e)
    (line : finOf 4 (bytesOf e 1 1) = some l) (config : inputConfigOf e = some f) (report : f.report = some (k, q.val)) :
    exec (.configureInputLine c) s = .next
      (if (s.cq q).state = .active then
        (s.setInput l ((s.input l).configured f.enabled (some k) (some q) f.spacing)).completeRequest c 0
          (inputResult .ok s.tb.value (s.input l))
      else s.completeRequest c 0 (inputResult .noRing s.tb.value (s.input l))) := by
  show execConfigureInputLine c s = _
  rw [execConfigureInputLine, h.requestOf]
  dsimp only
  rw [line]
  dsimp only
  rw [config]
  dsimp only
  rw [report]
  dsimp only
  rw [finOf_eq_some_iff.2 rfl]
  rfl

/-- The record of an input line after an accepted command, with the fields of section 6.1.1. -/
theorem InputLine.configured_eq (x : InputLine) {n : Nat} (report : Option EdgeSelect) (ring : Option (Fin 16))
    (spacing : Nat) : x.configured (n == 1) report ring spacing =
      { enabled := n == 1, report := report, reportRing := ring, spacing := spacing, lastEdge := none, suppressed := 0
        level := if n = 1 ∧ x.enabled = true then x.level else none
        sampled := if n = 1 ∧ x.enabled = true then x.sampled else true } := by
  simp [InputLine.configured]

/-- A line that is enabled sees no edge before its first sample (R118). -/
theorem exec_inputEdge_configured {t u : State} {x : InputLine} {n : Nat} {report : Option EdgeSelect}
    {ring : Option (Fin 16)} {spacing : Nat} {r : Fin 16} {y : Result} (was : x.enabled = false)
    (h : Answered (u.setInput l (x.configured (n == 1) report ring spacing)) t c r y) (k : EdgeKind) :
    exec (.inputEdge l k) t = .next t := by
  have line : t.input l = x.configured (n == 1) report ring spacing := by
    rw [State.input, h.lnu]
    exact State.input_setInput_self u l _
  have blind : (t.input l).sees k = false := by
    rw [line]
    simp [InputLine.sees, InputLine.configured, was]
  show execInputEdge l k t = _
  rw [execInputEdge, blind, Bool.and_false]
  rfl

end configure

/-- Settles O43. -/
theorem configureInputLineChecks : Obligations.ConfigureInputLineChecks := by
  refine ⟨?_, rfl, rfl, rfl⟩
  rintro s c e enabled select ring spacing waits rfl rfl rfl rfl
  obtain ⟨t, run, -⟩ := commandsKeepTheQueue (.configureInputLine c) s
  refine ⟨t, run, fun none => ?_, fun l line => ?_⟩
  · exact next_unique run (exec_configureInput_noLine waits (finOf_eq_none_iff.2 none)) ▸ waits.answered _ _ rfl rfl
  · have line : finOf 4 (bytesOf e 1 1) = some l := finOf_eq_some_iff.2 line
    have reports {q : Fin 16} (enabled : bytesOf e 2 1 ≤ 1) (spacing : bytesOf e 8 4 ≤ 1000000) (low : 1 ≤ bytesOf e 3 1)
        (high : bytesOf e 3 1 ≤ 3) (ring : bytesOf e 4 1 = q.val) : ∃ k, edgeSelectOf (bytesOf e 3 1) = some k
          ∧ inputConfigOf e = some { enabled := bytesOf e 2 1 == 1, report := some (k, q.val), spacing := bytesOf e 8 4 } := by
      have known : ¬ (bytesOf e 3 1 = 0 ∨ 3 < bytesOf e 3 1) := by omega
      have small : bytesOf e 4 1 < 16 := by omega
      obtain ⟨k, select⟩ := Option.ne_none_iff_exists'.1 (mt edgeSelectOf_eq_none_iff.1 known)
      have config := inputConfigOf_of_reports enabled spacing select small
      rw [ring] at config
      exact ⟨k, select, config⟩
    refine ⟨fun fails => ?_, fun q enabled spacing low high ring gone => ?_, fun q enabled spacing low high ring active => ?_,
      fun enabled spacing select ring => ?_⟩
    · exact next_unique run (exec_configureInput_bad waits line (inputConfigOf_of_fails fails)) ▸ waits.answered _ _ rfl rfl
    · obtain ⟨k, -, config⟩ := reports enabled spacing low high ring
      have same := next_unique run (exec_configureInput_reports waits line config rfl)
      rw [if_neg gone] at same
      exact same ▸ waits.answered _ _ rfl rfl
    · obtain ⟨k, select, config⟩ := reports enabled spacing low high ring
      have same := next_unique run (exec_configureInput_reports waits line config rfl)
      rw [if_pos active] at same
      have answered := same ▸ waits.answered (s.setInput l ((s.input l).configured (bytesOf e 2 1 == 1) (some k) (some q)
        (bytesOf e 8 4))) (inputResult .ok s.tb.value (s.input l)) rfl rfl
      refine ⟨?_, fun _ was => exec_inputEdge_configured was answered⟩
      rw [select, ← InputLine.configured_eq]
      exact answered
    · have same := next_unique run (exec_configureInput_quiet waits line (inputConfigOf_of_quiet enabled spacing select ring) rfl)
      have answered := same ▸ waits.answered (s.setInput l ((s.input l).configured (bytesOf e 2 1 == 1) none none
        (bytesOf e 8 4))) (inputResult .ok s.tb.value (s.input l)) rfl rfl
      refine ⟨?_, fun _ was => exec_inputEdge_configured was answered⟩
      rw [← InputLine.configured_eq]
      exact answered

/-! ## The head of the gate calendar (R125 to R127) -/

section gates

variable {s : State} {h : TimedEntry} {rest : List TimedEntry} {x : Slot} {g : Gate}

theorem State.calendarHead?_of_reached (calendar : s.lnu.calendar = h :: rest) (reached : h.time ≤ s.tb.value) :
    s.calendarHead? = some (h.slot, s.slot? h.slot) := by
  rw [State.calendarHead?, calendar]
  exact if_pos reached

section head

variable (alive : Lives s) (head : s.calendarHead? = some (h.slot, some x)) (gate : x.gate = some g)

include alive head gate

theorem exec_gateOpen_awaiting (state : x.state = .awaiting) : exec .gateOpen s = .next (s.openGate h.slot x g) := by
  show execGateOpen s = _
  rw [execGateOpen, if_pos ((State.live_iff s).2 alive), head]
  dsimp only
  rw [state, gate]

theorem exec_gateOpen_listening (state : x.state = .listening) : exec .gateOpen s = .next s := by
  show execGateOpen s = _
  rw [execGateOpen, if_pos ((State.live_iff s).2 alive), head]
  dsimp only
  rw [state, gate]

theorem exec_gateClose_awaiting (state : x.state = .awaiting) : exec .gateClose s = .next s := by
  show execGateClose s = _
  rw [execGateClose, if_pos ((State.live_iff s).2 alive), head]
  dsimp only
  rw [state, gate]

theorem exec_gateClose_listening (state : x.state = .listening) : exec .gateClose s = .next (s.closeGate h.slot x g) := by
  show execGateClose s = _
  rw [execGateClose, if_pos ((State.live_iff s).2 alive), head]
  dsimp only
  rw [state, gate]

end head

theorem State.closeGate_of_fireAtClose (id : Nat) (policy : g.closePolicy = .fireAtClose) :
    s.closeGate id x g = (s.unplace (fun k => k == id)).enterSchedule id x g.closeTime := by
  rw [State.closeGate, policy]

theorem State.closeGate_of_fail (id : Nat) (policy : g.closePolicy = .fail) : s.closeGate id x g
    = (s.postCompletion (s.sq x.ring).cq (gateClosedCompletion x s.now g.closeTime)).endSlot id x.ring := by
  rw [State.closeGate, policy]

/-- What stands in the listen lists once a slot has left every place. -/
theorem State.listen_unplace (id : Nat) (l : Fin 4) :
    (s.unplace (fun k => k == id)).lnu.listen[l] = s.lnu.listen[l].filter (fun k => k != id) := by
  show (s.lnu.listen.map _)[l] = _
  rw [Fin.getElem_fin, Vector.getElem_map]
  rfl

theorem State.mem_calendar_unplace (id : Nat) (y : TimedEntry) :
    y ∈ (s.unplace (fun k => k == id)).lnu.calendar ↔ y ∈ s.lnu.calendar ∧ y.slot ≠ id := by
  show y ∈ s.lnu.calendar.filter _ ↔ _
  simp

theorem State.not_mem_listen_unplace (id : Nat) (l : Fin 4) : id ∉ (s.unplace (fun k => k == id)).lnu.listen[l] := by
  rw [State.listen_unplace]
  simp

end gates

/-- Settles O40, by the state of the head's slot. -/
theorem gatesOpenAndClose : Obligations.GatesOpenAndClose := by
  intro s h rest x g alive calendar reached slot gate
  have head := State.calendarHead?_of_reached calendar reached
  rw [slot] at head
  refine ⟨fun state => ?opens, fun state policy => ?fires, fun q state policy notDeleting hq active empty room => ?fails⟩
  case opens =>
    have slots := (s.openGate_effect h.slot x g).1
    refine ⟨_, exec_gateOpen_awaiting alive head gate state, exec_gateClose_awaiting alive head gate state, ?_,
      fun k hk => (slots k).trans (if_neg hk), rfl, ?_, fun y => ?_, rfl, rfl, rfl, rfl, rfl, rfl, rfl, rfl⟩
    · rw [slots, if_pos rfl]
    · show (((s.unplace (fun k => k == h.slot)).lnu.listen.set g.line
        ((s.unplace (fun k => k == h.slot)).lnu.listen[g.line] ++ [h.slot])))[g.line] = _
      rw [State.listen_unplace, Fin.getElem_fin, Vector.getElem_set_self]
    · rw [(s.openGate_effect h.slot x g).2, mem_insertTimed, or_comm]
      simp
  case fires =>
    refine ⟨_, exec_gateClose_listening alive head gate state, exec_gateOpen_listening alive head gate state, ?_⟩
    rw [State.closeGate_of_fireAtClose _ policy]
    refine ⟨?_, fun k hk => ?_, rfl, fun y mem => ((s.mem_calendar_unplace h.slot y).1 mem).2,
      fun l => s.not_mem_listen_unplace h.slot l, mem_insertTimed.2 (.inl rfl), rfl, rfl, rfl, rfl, rfl, rfl⟩
    · rw [State.slot?_enterSchedule, if_pos rfl]
      rfl
    · rw [State.slot?_enterSchedule, if_neg hk, State.slot?_unplace]
  case fails =>
    subst hq
    have wrote := wrote_writeEntry s (s.sq x.ring).cq (gateClosedCompletion x s.now g.closeTime)
    refine ⟨_, exec_gateClose_listening alive head gate state, ?_⟩
    rw [State.closeGate_of_fail _ policy, State.postCompletion_of_room _ alive active empty room, State.endSlot]
    have frame := wrote.frame
    rw [State.retireIfDone_of_not_deleting _ _
      (by show ((s.writeEntry _ _).sq x.ring).state ≠ _; rw [frame.sq]; exact notDeleting)]
    generalize s.writeEntry (s.sq x.ring).cq (gateClosedCompletion x s.now g.closeTime) = w at wrote frame
    refine ⟨?_, fun k hk => ?_, fun y mem => ((w.mem_calendar_unplace h.slot y).1 mem).2,
      fun l => w.not_mem_listen_unplace h.slot l, .of_hp wrote.handsOver.1, frame.tb, frame.rqe, ?_, frame.wtb⟩
    · rw [State.slot?_freeSlot, if_pos rfl]
    · rw [State.slot?_freeSlot, if_neg hk]
      exact frame.slot? k
    · show w.lnu.outputs = s.lnu.outputs
      rw [frame.lnu]

/-! ## The step event at LNU (R124, R129, R130) -/

section sweep

variable {s : State} {x : StepEvent} {rest : List StepEvent}

theorem exec_lnuStepEvent (steps : s.lnu.steps = x :: rest) (alive : Lives s) :
    exec .lnuStepEvent s = .next (({ s with lnu := { s.lnu with steps := rest } } : State).sweepCalendar) := by
  show execLnuStepEvent s = _
  rw [execLnuStepEvent, steps]
  dsimp only
  rw [if_pos ((State.live_iff s).2 alive)]

theorem exec_lnuStepEvent_stopped (steps : s.lnu.steps = x :: rest) (dead : ¬ Lives s) :
    exec .lnuStepEvent s = .next { s with lnu := { s.lnu with steps := rest } } := by
  show execLnuStepEvent s = _
  rw [execLnuStepEvent, steps]
  dsimp only
  rw [if_neg fun live => dead ((State.live_iff s).1 live)]

theorem State.processHead_of_ahead (ahead : ¬ ∃ h tail, s.lnu.calendar = h :: tail ∧ h.time ≤ s.tb.value) :
    s.processHead = s := by
  have none : s.calendarHead? = none := (State.calendarHead?_eq_none_iff s).2 fun h tail calendar =>
    Nat.not_le.1 fun reached => ahead ⟨h, tail, calendar, reached⟩
  rw [State.processHead, none]

/-- An entry stands alone in the calendar for its slot, whose content is `o`. -/
structure StandsAlone (s : State) (y : TimedEntry) (o : Option Slot) : Prop where
  mem : y ∈ s.lnu.calendar
  slot : s.slot? y.slot = o
  alone : ∀ z ∈ s.lnu.calendar, z.slot = y.slot → z = y

/-- The processing of the head leaves the entries that lie ahead and their slots alone. -/
theorem StandsAlone.processHead {y : TimedEntry} {o : Option Slot} (law : StandsAlone s y o) (ahead : s.tb.value < y.time) :
    StandsAlone s.processHead y o := by
  by_cases reached : ∃ h tail, s.lnu.calendar = h :: tail ∧ h.time ≤ s.tb.value
  · obtain ⟨h, tail, calendar, reached⟩ := reached
    have other : y.slot ≠ h.slot := fun same => by
      have := law.alone h (calendar ▸ List.mem_cons_self) same.symm
      subst this
      omega
    have inTail : ∀ z, z ∈ tail → z ∈ s.lnu.calendar := fun z mem => calendar ▸ List.mem_cons_of_mem h mem
    have stays : y ∈ s.lnu.calendar.filter (fun t => !(t.slot == h.slot)) :=
      List.mem_filter.2 ⟨law.mem, by simpa using other⟩
    have filtered {z : TimedEntry} (mem : z ∈ s.lnu.calendar.filter (fun t => !(t.slot == h.slot))) : z ∈ s.lnu.calendar :=
      (List.mem_filter.1 mem).1
    rcases State.processHead_cases calendar reached with ⟨x, g, -, -, -, same⟩ | ⟨x, g, -, -, -, same⟩ | ⟨-, same⟩
    · obtain ⟨slots, entries⟩ := s.openGate_effect h.slot x g
      rw [same]
      refine ⟨?_, ?_, ?_⟩
      · rw [entries]
        exact mem_insertTimed.2 (.inr stays)
      · rw [slots, if_neg other]
        exact law.slot
      · rw [entries]
        rintro z mem own
        rcases mem_insertTimed.1 mem with rfl | mem
        · exact absurd own.symm other
        · exact law.alone z (filtered mem) own
    · obtain ⟨slots, entries⟩ := s.closeGate_effect h.slot x g
      rw [same]
      exact ⟨entries ▸ stays, (slots _ other).trans law.slot, fun z mem => law.alone z (filtered (entries ▸ mem))⟩
    · rw [same]
      refine ⟨?_, law.slot, fun z mem => law.alone z (inTail z mem)⟩
      have mem := law.mem
      rw [calendar] at mem
      exact (List.mem_cons.1 mem).resolve_left fun own => other (congrArg TimedEntry.slot own)
  · rw [State.processHead_of_ahead reached]
    exact law

theorem StandsAlone.sweepUpTo {y : TimedEntry} {o : Option Slot} (n : Nat) {s : State} (law : StandsAlone s y o)
    (ahead : s.tb.value < y.time) : StandsAlone (State.sweepUpTo n s) y o := by
  induction n generalizing s with
  | zero => exact law
  | succ n ih =>
    rw [State.sweepUpTo]
    split
    · exact ih (law.processHead ahead) (by rw [(frame_processHead s).tb]; exact ahead)
    · exact law

/-- Under the law of the places, a slot has one entry of the calendar at most. -/
theorem standsAlone_of_placed (store : StoreLaw s) (placement : PlacementLaw s) {y : TimedEntry}
    (mem : y ∈ s.lnu.calendar) : StandsAlone s y (s.slot? y.slot) := by
  refine ⟨mem, rfl, fun z other own => ?_⟩
  have placed := (placementLaw_iff ((storeLaw_iff s).1 store).rising).1 placement
  obtain ⟨p, seat, -⟩ := placed y.slot
  have entry {t : TimedEntry} (ht : t ∈ s.lnu.calendar) (own : t.slot = y.slot) : t ∈ p.calendar.toList :=
    seat.calendar ▸ List.mem_filter.2 ⟨ht, by simpa using own⟩
  have hy := Option.mem_toList.1 (entry mem rfl)
  have hz := Option.mem_toList.1 (entry other own)
  exact Option.some.inj (hz.symm.trans hy)

end sweep

/-! ### The step events are not looked at by the processing of a head -/

/-- The state with these step events delivered to LNU. -/
def State.withSteps (s : State) (l : List StepEvent) : State := { s with lnu := { s.lnu with steps := l } }

section withSteps

variable (s : State) (l : List StepEvent)

theorem State.withSteps_notifyIfDue (q : Fin 16) : (s.withSteps l).notifyIfDue q = (s.notifyIfDue q).withSteps l := by
  unfold State.notifyIfDue
  by_cases due : (s.cq q).notifyDue = true
  · rw [if_pos (by exact due), if_pos due]
    rfl
  · rw [if_neg (by exact due), if_neg due]

theorem State.withSteps_writeEntry (q : Fin 16) (c : Completion) :
    (s.withSteps l).writeEntry q c = (s.writeEntry q c).withSteps l :=
  State.withSteps_notifyIfDue ((s.setCq q (s.cq q).afterWrite).handCuWrite ((s.cq q).entryWrite q c)) l q

theorem State.withSteps_postCompletion (q : Fin 16) (c : Completion) :
    (s.withSteps l).postCompletion q c = (s.postCompletion q c).withSteps l := by
  unfold State.postCompletion
  rw [show (s.withSteps l).live = s.live from rfl, show (s.withSteps l).cq q = s.cq q from rfl,
    show (s.withSteps l).poolUsed = s.poolUsed from rfl, State.withSteps_writeEntry]
  split
  · rfl
  · split
    · rfl
    · rfl
    · split
      · rfl
      · split <;> rfl

theorem State.withSteps_retireIfDone (r : Fin 16) : (s.withSteps l).retireIfDone r = (s.retireIfDone r).withSteps l := by
  unfold State.retireIfDone
  by_cases done : (s.sq r).state = .deleting ∧ (s.sq r).inFlight = false ∧ (s.slotsOfRing r).isEmpty
  · rw [if_pos (by exact done), if_pos done]
    exact State.withSteps_postCompletion (s.setSq r SqContext.absent) l 0 _
  · rw [if_neg (by exact done), if_neg done]

theorem State.withSteps_closeGate (id : Nat) (y : Slot) (g : Gate) :
    (s.withSteps l).closeGate id y g = (s.closeGate id y g).withSteps l := by
  unfold State.closeGate
  cases g.closePolicy with
  | fireAtClose => rfl
  | fail =>
    dsimp only
    rw [show (s.withSteps l).sq y.ring = s.sq y.ring from rfl, State.withSteps_postCompletion]
    exact State.withSteps_retireIfDone ((s.postCompletion (s.sq y.ring).cq (gateClosedCompletion y s.now g.closeTime)).freeSlot
      id) l y.ring

theorem State.processHead_of_awaiting {s : State} {id : Nat} {x : Slot} {g : Gate}
    (head : s.calendarHead? = some (id, some x)) (gate : x.gate = some g) (state : x.state = .awaiting) :
    s.processHead = s.openGate id x g := by
  rw [State.processHead, head]
  dsimp only
  rw [state, gate]

theorem State.processHead_of_listening {s : State} {id : Nat} {x : Slot} {g : Gate}
    (head : s.calendarHead? = some (id, some x)) (gate : x.gate = some g) (state : x.state = .listening) :
    s.processHead = s.closeGate id x g := by
  rw [State.processHead, head]
  dsimp only
  rw [state, gate]

theorem State.processHead_of_other {s : State} {h : TimedEntry} {tail : List TimedEntry}
    (calendar : s.lnu.calendar = h :: tail) (reached : h.time ≤ s.tb.value)
    (other : ∀ y, s.slot? h.slot = some y → y.state ≠ .awaiting ∧ y.state ≠ .listening) :
    s.processHead = { s with lnu := { s.lnu with calendar := tail } } := by
  rcases State.processHead_cases calendar reached with ⟨x, g, slot, state, -⟩ | ⟨x, g, slot, state, -⟩ | ⟨-, same⟩
  · exact absurd state (other x slot).1
  · exact absurd state (other x slot).2
  · exact same

theorem State.engines_closeGate (s : State) (id : Nat) (y : Slot) (g : Gate) :
    (s.closeGate id y g).dsp.engines = s.dsp.engines := by
  unfold State.closeGate
  cases g.closePolicy with
  | fireAtClose => rfl
  | fail =>
    show ((State.freeSlot _ id).retireIfDone y.ring).dsp.engines = _
    rw [(frame_retireIfDone _ _).dsp]
    show (State.postCompletion _ _ _).dsp.engines = _
    rw [(frame_postCompletion _ _ _).dsp]

theorem State.engines_processHead (s : State) : s.processHead.dsp.engines = s.dsp.engines := by
  by_cases reached : ∃ h tail, s.lnu.calendar = h :: tail ∧ h.time ≤ s.tb.value
  · obtain ⟨h, tail, calendar, reached⟩ := reached
    rcases State.processHead_cases calendar reached with ⟨x, g, -, -, -, same⟩ | ⟨x, g, -, -, -, same⟩ | ⟨-, same⟩
    · rw [same]
      rfl
    · rw [same]
      exact s.engines_closeGate h.slot x g
    · rw [same]
  · rw [State.processHead_of_ahead reached]

theorem State.engines_sweepUpTo (n : Nat) (s : State) : (State.sweepUpTo n s).dsp.engines = s.dsp.engines := by
  induction n generalizing s with
  | zero => rfl
  | succ n ih =>
    rw [State.sweepUpTo]
    split
    · rw [ih, State.engines_processHead]
    · rfl

/-- What the step event does from a head that has been reached is what it does from the state that the head leaves. -/
theorem exec_lnuStepEvent_step {s v : State} {h : TimedEntry} {tail : List TimedEntry} (steps : s.lnu.steps ≠ [])
    (alive : Lives s) (calendar : s.lnu.calendar = h :: tail) (reached : h.time ≤ s.tb.value) (head : s.processHead = v)
    (same : ∀ l, (s.withSteps l).processHead = v.withSteps l) :
    exec .lnuStepEvent s = exec .lnuStepEvent v := by
  subst head
  obtain ⟨x, rest, events⟩ := List.exists_cons_of_ne_nil steps
  have frame := frame_processHead s
  have alive' : Lives s.processHead := by
    rw [Lives, HostPort.sameBut_condition frame.hp]
    exact alive
  rw [exec_lnuStepEvent events alive, exec_lnuStepEvent (frame.lnuSteps.trans events) alive']
  show Host.Outcome.next (s.withSteps rest).sweepCalendar = _
  rw [State.sweepCalendar_step (s := s.withSteps rest) calendar reached, same rest]
  rfl

end withSteps

/-- Settles O41: the sweep processes head after head, and an entry that lies ahead is never the head that it processes. -/
theorem stepEventSweepsTheCalendar : Obligations.StepEventSweepsTheCalendar := by
  refine ⟨fun s x rest steps alive => ?sweeps, fun s x rest steps ahead => ?ahead,
    fun s h tail steps alive calendar reached => ?head, fun s x rest steps dead => exec_lnuStepEvent_stopped steps dead,
    fun s steps => ?none⟩
  case sweeps =>
    have frame := frame_sweepCalendar (s.withSteps rest)
    refine ⟨_, exec_lnuStepEvent steps alive, frame.lnuSteps, fun h tail calendar => ?_, fun store placement y mem ahead => ?_,
      frame.tb, frame.wtb, frame.outputs, frame.inputs, ?_, HostPort.sameBut_condition frame.hp⟩
    · have settled := (State.calendarHead?_eq_none_iff _).1 (s.withSteps rest).sweepCalendar_ahead h tail calendar
      rw [frame.tb] at settled
      exact settled
    · have law : StandsAlone (s.withSteps rest) y (s.slot? y.slot) := by
        obtain ⟨mem, slot, alone⟩ := standsAlone_of_placed store placement mem
        exact ⟨mem, slot, alone⟩
      have swept := law.sweepUpTo (2 * s.lnu.calendar.length) ahead
      exact ⟨swept.mem, swept.slot⟩
    · exact State.engines_sweepUpTo _ _
  case ahead =>
    by_cases alive : Lives s
    · rw [exec_lnuStepEvent steps alive]
      exact congrArg Host.Outcome.next (State.sweepCalendar_of_ahead ((State.calendarHead?_eq_none_iff _).2 ahead))
    · exact exec_lnuStepEvent_stopped steps alive
  case head =>
    have first := State.calendarHead?_of_reached calendar reached
    refine ⟨fun y g slot gate state => ?_, fun y g slot gate state => ?_, fun other => ?_⟩
    · rw [slot] at first
      refine ⟨_, exec_gateOpen_awaiting alive first gate state, exec_lnuStepEvent_step steps alive calendar reached
        (State.processHead_of_awaiting first gate state) fun l => ?_⟩
      exact State.processHead_of_awaiting (s := s.withSteps l) first gate state
    · rw [slot] at first
      refine ⟨_, exec_gateClose_listening alive first gate state, exec_lnuStepEvent_step steps alive calendar reached
        (State.processHead_of_listening first gate state) fun l => ?_⟩
      rw [State.processHead_of_listening (s := s.withSteps l) first gate state, State.withSteps_closeGate]
    · exact exec_lnuStepEvent_step steps alive calendar reached (State.processHead_of_other calendar reached other)
        fun l => State.processHead_of_other (s := s.withSteps l) calendar reached other
  case none =>
    show execLnuStepEvent s = _
    rw [execLnuStepEvent, steps]

end Sys2Proof.Machine

/-! Input edges (R118 to R121, R128). -/

namespace Sys2Proof.Machine

open Sys2Proof

/-! ## The release of listeners (R128) -/

/-- The due time less the stamp with which a listener is released. -/
def Slot.delay (x : Slot) : Nat := (x.gate.map Gate.delay).getD 0

/-- The slot of a released listener under this number. -/
def Slot.releasedAt (x : Slot) (stamp : Nat) (n : Word64) : Slot :=
  { x with state := .armed, due := stamp + x.delay, seq := n }

/-- The listeners `ids` have been released in their order at this stamp. -/
structure Released (stamp : Nat) (s t : State) (ids : List Nat) : Prop where
  untouched : ∀ id ∉ ids, t.slot? id = s.slot? id
  released : ∀ id ∈ ids, ∀ x, s.slot? id = some x → ∃ n, t.slot? id = some (x.releasedAt stamp n)
  numbered : ids.Nodup → ∀ (i id : Nat) (x : Slot), ids[i]? = some id → s.slot? id = some x →
    t.slot? id = some (x.releasedAt stamp (s.ast.seq + BitVec.ofNat 64 i))
    ∧ ({ slot := id, time := stamp + x.delay, seq := s.ast.seq + BitVec.ofNat 64 i } : TimedEntry) ∈ t.dsp.schedule
  seq : t.ast.seq = s.ast.seq + BitVec.ofNat 64 ids.length
  listen : ∀ m : Fin 4, t.lnu.listen[m] = s.lnu.listen[m].filter (fun id => id ∉ ids)
  calendar : t.lnu.calendar = s.lnu.calendar.filter (fun y => y.slot ∉ ids)
  schedule : ∀ y : TimedEntry, y.slot ∉ ids → (y ∈ t.dsp.schedule ↔ y ∈ s.dsp.schedule)
  hp : t.hp = s.hp
  cu : t.cu = s.cu
  tb : t.tb = s.tb
  wtb : t.wtb = s.wtb
  inputs : t.lnu.inputs = s.lnu.inputs
  outputs : t.lnu.outputs = s.lnu.outputs
  engines : t.dsp.engines = s.dsp.engines

section release

variable {stamp : Nat} {s t : State} {id : Nat} {ids : List Nat}

theorem Released.refl (s : State) : Released stamp s s [] where
  untouched _ _ := rfl
  released _ mem := absurd mem List.not_mem_nil
  numbered _ i id x first := by cases first
  seq := by simp
  listen m := by simp
  calendar := by simp
  schedule _ _ := .rfl
  hp := rfl
  cu := rfl
  tb := rfl
  wtb := rfl
  inputs := rfl
  outputs := rfl
  engines := rfl

/-- One listener of a slot is released. -/
theorem State.releaseListener_of_slot {x : Slot} (slot : s.slot? id = some x) : State.releaseListener stamp s id
    = (s.unplace (fun k => k == id)).enterSchedule id x (stamp + x.delay) := by
  rw [State.releaseListener, slot]
  rfl

/-- A listener is released before the others. -/
theorem Released.cons {x : Slot} (slot : s.slot? id = some x)
    (h : Released stamp (State.releaseListener stamp s id) t ids) : Released stamp s t (id :: ids) := by
  rw [State.releaseListener_of_slot slot] at h
  have first (k : Nat) : ((s.unplace (fun k => k == id)).enterSchedule id x (stamp + x.delay)).slot? k
      = if k = id then some (x.releasedAt stamp s.ast.seq) else s.slot? k := by
    rw [State.slot?_enterSchedule, State.slot?_unplace]
    rfl
  have other {k : Nat} (hk : k ≠ id) := (first k).trans (if_neg hk)
  have own := (first id).trans (if_pos rfl)
  have entry (y : TimedEntry) : y ∈ ((s.unplace (fun k => k == id)).enterSchedule id x (stamp + x.delay)).dsp.schedule
      ↔ y = { slot := id, time := stamp + x.delay, seq := s.ast.seq } ∨ y ∈ s.dsp.schedule ∧ y.slot ≠ id := by
    refine mem_insertTimed.trans (or_congr_right ?_)
    show y ∈ s.dsp.schedule.filter _ ↔ _
    simp
  constructor
  case untouched =>
    intro k out
    obtain ⟨hk, out⟩ := not_or.1 (mt List.mem_cons.2 out)
    exact (h.untouched k out).trans (other hk)
  case released =>
    intro k mem y hy
    by_cases hk : k = id
    · subst hk
      obtain rfl : x = y := Option.some.inj (slot.symm.trans hy)
      by_cases again : k ∈ ids
      · obtain ⟨n, hn⟩ := h.released k again _ own
        exact ⟨n, hn⟩
      · exact ⟨_, (h.untouched k again).trans own⟩
    · exact h.released k ((List.mem_cons.1 mem).resolve_left hk) y ((other hk).trans hy)
  case numbered =>
    intro nodup i k y index hy
    obtain ⟨fresh, nodup⟩ := List.nodup_cons.1 nodup
    cases i with
    | zero =>
      obtain rfl : id = k := Option.some.inj index
      obtain rfl : x = y := Option.some.inj (slot.symm.trans hy)
      rw [BitVec.add_zero]
      exact ⟨(h.untouched id fresh).trans own, (h.schedule _ fresh).2 ((entry _).2 (.inl rfl))⟩
    | succ i =>
      have mem : k ∈ ids := List.mem_of_getElem? index
      have hk : k ≠ id := fun same => fresh (same ▸ mem)
      have later := h.numbered nodup i k y index ((other hk).trans hy)
      have number : s.ast.seq + BitVec.ofNat 64 (i + 1) = s.ast.seq + 1 + BitVec.ofNat 64 i := by
        rw [BitVec.ofNat_add, BitVec.add_assoc, BitVec.add_comm 1]
        rfl
      rw [number]
      exact later
  case seq =>
    rw [h.seq, List.length_cons, BitVec.ofNat_add, BitVec.add_comm (BitVec.ofNat 64 ids.length), ← BitVec.add_assoc]
    rfl
  case listen =>
    intro m
    rw [h.listen m]
    show (s.unplace (fun k => k == id)).lnu.listen[m].filter _ = _
    rw [State.listen_unplace, List.filter_filter]
    refine List.filter_congr fun k _ => ?_
    rw [Bool.eq_iff_iff]
    simp [and_comm]
  case calendar =>
    rw [h.calendar]
    show (s.lnu.calendar.filter _).filter _ = _
    rw [List.filter_filter]
    refine List.filter_congr fun y _ => ?_
    rw [Bool.eq_iff_iff]
    simp [and_comm]
  case schedule =>
    intro y out
    obtain ⟨hy, out⟩ := not_or.1 (mt List.mem_cons.2 out)
    rw [h.schedule y out, entry y]
    refine ⟨fun mem => mem.elim (fun same => absurd (congrArg TimedEntry.slot same) hy) And.left, fun mem => .inr ⟨mem, hy⟩⟩
  case hp => exact h.hp
  case cu => exact h.cu
  case tb => exact h.tb
  case wtb => exact h.wtb
  case inputs => exact h.inputs
  case outputs => exact h.outputs
  case engines => exact h.engines

theorem released_foldl (ids : List Nat) (s : State) (occupied : ∀ id ∈ ids, (s.slot? id).isSome = true) :
    Released stamp s (ids.foldl (State.releaseListener stamp) s) ids := by
  induction ids generalizing s with
  | nil => exact .refl s
  | cons id ids ih =>
    obtain ⟨x, slot⟩ := Option.isSome_iff_exists.1 (occupied id List.mem_cons_self)
    refine .cons slot (ih _ fun k mem => ?_)
    rw [State.releaseListener_of_slot slot, State.slot?_enterSchedule]
    split
    · rfl
    · exact occupied k (List.mem_cons_of_mem _ mem)

end release

/-! ## Edges seen, suppressed and accepted (R118 to R121) -/

section edges

variable {s : State} {l : Fin 4} {k : EdgeKind}

theorem InputLine.sees_iff {x : InputLine} : x.sees k = true ↔
    x.enabled = true ∧ x.sampled = false ∧ x.level ≠ some (edgeLevel k) := by
  simp [InputLine.sees, and_assoc]

theorem InputLine.suppresses_iff {x : InputLine} {stamp : Nat} : x.suppresses stamp = true ↔
    ∃ n, x.lastEdge = some n ∧ n ≤ stamp ∧ stamp - n < x.spacing := by
  unfold InputLine.suppresses
  cases x.lastEdge <;> simp

theorem EdgeSelect.covers_iff {sel : EdgeSelect} : sel.covers k = true ↔
    sel = .either ∨ (sel = .rise ∧ k = .rise) ∨ (sel = .fall ∧ k = .fall) := by
  cases sel <;> cases k <;> simp [EdgeSelect.covers]

theorem exec_inputEdge_unseen (h : ¬ (Lives s ∧ (s.input l).sees k = true)) : exec (.inputEdge l k) s = .next s := by
  show execInputEdge l k s = _
  rw [execInputEdge, if_neg]
  intro seen
  obtain ⟨live, sees⟩ := Bool.and_eq_true_iff.1 seen
  exact h ⟨(State.live_iff s).1 live, sees⟩

theorem exec_inputEdge (alive : Lives s) (sees : (s.input l).sees k = true) : exec (.inputEdge l k) s = .next
    (if (s.input l).suppresses s.tb.value then s.suppressEdge l k else s.acceptEdge l k) :=
  congrArg Host.Outcome.next (if_pos (Bool.and_eq_true_iff.2 ⟨(State.live_iff s).2 alive, sees⟩))

/-- The line once an edge has been accepted, before it is reported. -/
def State.acceptedLine (s : State) (l : Fin 4) (k : EdgeKind) : InputLine :=
  { s.input l with lastEdge := some s.tb.value, level := some (edgeLevel k), sampled := true }

/-- The state once the listeners of an accepted edge have been released. -/
def State.offered (s : State) (l : Fin 4) (k : EdgeKind) : State :=
  (s.setInput l (s.acceptedLine l k)).releaseAll l k s.tb.value

theorem State.acceptEdge_eq : s.acceptEdge l k
    = (s.offered l k).reportEdge l k s.tb.value (s.lnu.listen[l].countP (s.qualifies k s.tb.value)) := by
  rw [List.countP_eq_length_filter]
  rfl

/-- The release of the qualifying listeners of an accepted edge. -/
theorem State.released_offered : Released s.tb.value (s.setInput l (s.acceptedLine l k)) (s.offered l k)
    (s.lnu.listen[l].filter (s.qualifies k s.tb.value)) := by
  refine released_foldl _ _ fun id mem => ?_
  obtain ⟨x, g, slot, -⟩ := (s.qualifies_iff k s.tb.value id).1 (List.mem_filter.1 mem).2
  show (s.slot? id).isSome = true
  rw [slot]
  rfl

theorem State.input_offered (m : Fin 4) : (s.offered l k).input m = (s.setInput l (s.acceptedLine l k)).input m := by
  rw [State.input, State.released_offered.inputs]
  rfl

/-- The select of a line covers an edge, and there is a ring to report it to. -/
def InputLine.reports (x : InputLine) (k : EdgeKind) : Prop :=
  ∃ sel q, x.report = some sel ∧ x.reportRing = some q ∧ sel.covers k = true

theorem InputLine.reports_iff {x : InputLine} :
    x.reports k ↔ (x.reportRing.isSome && x.report.any (fun sel => sel.covers k)) = true := by
  unfold InputLine.reports
  cases x.report <;> cases x.reportRing <;> simp

theorem State.reportEdge_of_reports {sel : EdgeSelect} {q : Fin 16} (stamp n : Nat) (report : (s.input l).report = some sel)
    (ring : (s.input l).reportRing = some q) (covers : sel.covers k = true) : s.reportEdge l k stamp n
      = (s.postCompletion q (edgeCompletion l k stamp (s.input l).suppressed n)).setInput l
          { s.input l with suppressed := 0 } := by
  rw [State.reportEdge, report, ring]
  exact if_pos covers

theorem State.reportEdge_of_not_reports (stamp n : Nat) (h : ¬ (s.input l).reports k) : s.reportEdge l k stamp n = s := by
  unfold State.reportEdge
  split
  · rename_i sel q report ring
    exact if_neg fun covers => h ⟨sel, q, report, ring, covers⟩
  · rfl

/-- What the report of an accepted edge leaves alone, and what it does to its line. -/
structure ReportFrame (s t : State) (l : Fin 4) (k : EdgeKind) : Prop where
  ast : t.ast = s.ast
  dsp : t.dsp = s.dsp
  tb : t.tb = s.tb
  wtb : t.wtb = s.wtb
  listen : t.lnu.listen = s.lnu.listen
  calendar : t.lnu.calendar = s.lnu.calendar
  outputs : t.lnu.outputs = s.lnu.outputs
  line : t.input l = { s.input l with suppressed := t.input l |>.suppressed }
  suppressed : (t.input l).suppressed = (if (s.input l).reportRing.isSome && (s.input l).report.any (fun sel => sel.covers k)
    then 0 else (s.input l).suppressed)
  others : ∀ m ≠ l, t.input m = s.input m

theorem State.reportFrame (stamp n : Nat) : ReportFrame s (s.reportEdge l k stamp n) l k := by
  by_cases reports : (s.input l).reports k
  · obtain ⟨sel, q, report, ring, covers⟩ := reports
    have frame := frame_postCompletion s q (edgeCompletion l k stamp (s.input l).suppressed n)
    rw [State.reportEdge_of_reports stamp n report ring covers]
    generalize s.postCompletion q (edgeCompletion l k stamp (s.input l).suppressed n) = t at frame
    have line := State.input_setInput_self t l { s.input l with suppressed := 0 }
    have lnu (m : Fin 4) : t.input m = s.input m := by
      rw [State.input, frame.lnu]
      rfl
    refine ⟨frame.ast, frame.dsp, frame.tb, frame.wtb, ?_, ?_, ?_, ?_, ?_, fun m hm => ?_⟩
    · show t.lnu.listen = _
      rw [frame.lnu]
    · show t.lnu.calendar = _
      rw [frame.lnu]
    · show t.lnu.outputs = _
      rw [frame.lnu]
    · rw [line]
    · rw [line, if_pos (InputLine.reports_iff.1 ⟨sel, q, report, ring, covers⟩)]
    · rw [State.input_setInput_of_ne _ _ hm, lnu m]
  · rw [State.reportEdge_of_not_reports stamp n reports]
    exact ⟨rfl, rfl, rfl, rfl, rfl, rfl, rfl, rfl, (if_neg (mt InputLine.reports_iff.2 reports)).symm, fun _ _ => rfl⟩

end edges

section accepted

variable (s : State) (l : Fin 4) (k : EdgeKind)

/-- The report of an accepted edge, after the release of its listeners. -/
theorem reportFrame_acceptEdge : ReportFrame (s.offered l k) (s.acceptEdge l k) l k := by
  rw [State.acceptEdge_eq]
  exact State.reportFrame _ _

theorem State.input_acceptEdge : (s.acceptEdge l k).input l
    = { s.acceptedLine l k with suppressed := ((s.acceptEdge l k).input l).suppressed } := by
  have line := (reportFrame_acceptEdge s l k).line
  rw [State.input_offered, State.input_setInput_self] at line
  exact line

theorem State.suppressed_acceptEdge : ((s.acceptEdge l k).input l).suppressed
    = (if (s.input l).reportRing.isSome && (s.input l).report.any (fun sel => sel.covers k) then 0
      else (s.input l).suppressed) := by
  have suppressed := (reportFrame_acceptEdge s l k).suppressed
  rw [State.input_offered, State.input_setInput_self] at suppressed
  exact suppressed

theorem State.input_acceptEdge_of_ne {m : Fin 4} (hm : m ≠ l) : (s.acceptEdge l k).input m = s.input m := by
  rw [(reportFrame_acceptEdge s l k).others m hm, State.input_offered, State.input_setInput_of_ne _ _ hm]

theorem State.slot?_acceptEdge (id : Nat) : (s.acceptEdge l k).slot? id = (s.offered l k).slot? id := by
  rw [State.slot?, (reportFrame_acceptEdge s l k).ast]
  rfl

variable {s l k}

/-- The report of an accepted edge that is written (R121). -/
theorem handsOver_acceptEdge {sel : EdgeSelect} {q : Fin 16} (alive : Lives s) (report : (s.input l).report = some sel)
    (ring : (s.input l).reportRing = some q) (covers : sel.covers k = true) (active : (s.cq q).state = .active)
    (empty : (s.cq q).outbox = []) (room : 1 ≤ (s.cq q).room) :
    HandsOver s (s.acceptEdge l k) ((s.cq q).entryWrite q (edgeCompletion l k s.tb.value (s.input l).suppressed
      (s.lnu.listen[l].countP (s.qualifies k s.tb.value))) :: (s.cq q).afterWrite.notices q) := by
  have offered := s.released_offered (l := l) (k := k)
  have cq : (s.offered l k).cq q = s.cq q := by
    rw [State.cq, offered.cu]
    rfl
  have line : (s.offered l k).input l = s.acceptedLine l k := by rw [State.input_offered, State.input_setInput_self]
  have alive' : Lives (s.offered l k) := by
    rw [Lives, offered.hp]
    exact alive
  rw [State.acceptEdge_eq, State.reportEdge_of_reports (sel := sel) (q := q) _ _ (by rw [line]; exact report)
    (by rw [line]; exact ring) covers, line,
    State.postCompletion_of_room _ alive' (by rw [cq]; exact active) (by rw [cq]; exact empty) (by rw [cq]; exact room)]
  have handed := (wrote_writeEntry (s.offered l k) q (edgeCompletion l k s.tb.value (s.acceptedLine l k).suppressed
      (s.lnu.listen[l].countP (s.qualifies k s.tb.value)))).handsOver.1
  rw [cq, offered.hp] at handed
  exact .of_hp handed

theorem acceptEdge_of_not_reports (h : ¬ (s.input l).reports k) : s.acceptEdge l k = s.offered l k := by
  rw [State.acceptEdge_eq, State.reportEdge_of_not_reports]
  rw [State.input_offered, State.input_setInput_self]
  exact h

end accepted

/-- Settles O39: an edge is suppressed, or the listeners are released (`Released`) and the edge is reported
(`ReportFrame`). -/
theorem inputEdges : Obligations.InputEdges := by
  refine ⟨fun s l k alive enabled fresh level => ?_, fun s l k blind => exec_inputEdge_unseen ?blind,
    fun sel k => EdgeSelect.covers_iff, rfl, rfl⟩
  case blind =>
    rintro ⟨alive, sees⟩
    obtain ⟨enabled, fresh, level⟩ := InputLine.sees_iff.1 sees
    rcases blind with dead | disabled | sampled | same
    · exact dead alive
    · rw [enabled] at disabled; cases disabled
    · rw [fresh] at sampled; cases sampled
    · exact level same
  rw [exec_inputEdge alive (InputLine.sees_iff.2 ⟨enabled, fresh, level⟩)]
  refine ⟨fun n last le spaced => ?suppressed, fun spaced => ?accepted⟩
  case suppressed =>
    rw [if_pos (InputLine.suppresses_iff.2 ⟨n, last, le, spaced⟩)]
    rfl
  case accepted =>
    have apart : ¬ (s.input l).suppresses s.tb.value = true := fun h => by
      obtain ⟨n, last, le, early⟩ := InputLine.suppresses_iff.1 h
      have := spaced n last
      omega
    rw [if_neg apart]
    have offered := s.released_offered (l := l) (k := k)
    have report := reportFrame_acceptEdge s l k
    have line := s.input_acceptEdge l k
    have qualifies (id : Nat) := s.qualifies_iff k s.tb.value id
    refine ⟨_, rfl, by rw [line]; rfl, by rw [line]; rfl, by rw [line]; rfl, s.suppressed_acceptEdge l k,
      fun m hm => s.input_acceptEdge_of_ne l k hm, fun id x g mem slot state gate edge opens closes => ?_,
      fun p hp => ?_, fun quiet => ?_, report.outputs.trans offered.outputs, report.tb.trans offered.tb,
      report.wtb.trans offered.wtb, (congrArg Dispatcher.engines report.dsp).trans offered.engines⟩
    · obtain ⟨n, released⟩ := offered.released id
        (List.mem_filter.2 ⟨mem, (qualifies id).2 ⟨x, g, slot, state, gate, edge, opens, closes⟩⟩) x slot
      refine ⟨_, (s.slot?_acceptEdge l k id).trans released, rfl, ?_, rfl, rfl, rfl⟩
      rw [Slot.releasedAt, Slot.delay, gate]
      rfl
    · obtain rfl : p = s.qualifies k s.tb.value :=
        funext fun id => Bool.eq_iff_iff.2 ((hp id).trans (qualifies id).symm)
      have out {id : Nat} (h : id ∉ s.lnu.listen[l] ∨ s.qualifies k s.tb.value id = false) :
          id ∉ s.lnu.listen[l].filter (s.qualifies k s.tb.value) := fun mem => by
        obtain ⟨mem, holds⟩ := List.mem_filter.1 mem
        rcases h with new | not
        · exact new mem
        · rw [holds] at not; cases not
      refine ⟨fun id h => (s.slot?_acceptEdge l k id).trans (offered.untouched id (out h)), fun nodup => ⟨?_, ?_⟩, ?_,
        fun m hm disjoint => ?_, fun y => ?_, fun y h => ?_, fun sel q report' ring covers active empty room => ?_⟩
      · intro i id x g index slot gate
        have numbered := offered.numbered (nodup.filter _) i id x index slot
        have delay : x.delay = g.delay := by rw [Slot.delay, gate]; rfl
        rw [Slot.releasedAt, delay] at numbered
        rw [s.slot?_acceptEdge l k id, report.dsp]
        exact numbered
      · rw [report.ast]
        exact offered.seq
      · rw [report.listen, offered.listen l]
        refine List.filter_congr fun id mem => ?_
        have mem : id ∈ s.lnu.listen[l] := mem
        rw [Bool.eq_iff_iff, decide_eq_true_eq, List.mem_filter, not_and, Bool.not_eq_true, Bool.not_eq_true']
        exact ⟨fun h => h mem, fun h _ => h⟩
      · rw [report.listen, offered.listen m]
        refine List.filter_eq_self.2 fun id mem => decide_eq_true (out (.inl fun own => disjoint id own mem))
      · rw [report.calendar, offered.calendar, List.mem_filter, decide_eq_true_eq, List.mem_filter, not_and_or,
          Bool.not_eq_true]
        rfl
      · rw [report.dsp]
        exact offered.schedule y (out h)
      · have handed := handsOver_acceptEdge alive report' ring covers active empty room
        cases k <;> exact handed
    · have silent : ¬ (s.input l).reports k := by
        rintro ⟨sel, q, report, ring, covers⟩
        rcases quiet with none | none | ⟨sel', some, uncovered⟩
        · rw [none] at report; cases report
        · rw [none] at ring; cases ring
        · rw [report] at some
          cases some
          rw [covers] at uncovered
          cases uncovered
      rw [acceptEdge_of_not_reports silent]
      exact ⟨.of_hp offered.hp, offered.cu⟩

end Sys2Proof.Machine

/-! The arbiter (R159 to R162), taking an entry (R163, R165) and a fetch that fails (R164). -/

namespace Sys2Proof.Machine

open Sys2Proof

/-! ## The order of the scan (R160) -/

/-- How far a tenant ring lies behind the pointer. -/
def scanRank (pointer : Nat) (r : Fin 16) : Nat := (r.val + 15 - pointer) % 15

theorem mem_tenantRings {r : Fin 16} : r ∈ tenantRings ↔ r ≠ 0 := by revert r; decide

theorem mem_scanFrom {pointer : Nat} {r : Fin 16} : r ∈ scanFrom pointer ↔ r ≠ 0 := by
  simp only [scanFrom, List.mem_append, List.mem_filter, mem_tenantRings, decide_eq_true_eq, ← and_or_left]
  exact and_iff_left (by omega)

theorem scanFrom_ranked {pointer : Nat} (low : 1 ≤ pointer) (high : pointer ≤ 15) :
    (scanFrom pointer).Pairwise (fun a b => scanRank pointer a < scanRank pointer b) := by
  interval_cases pointer <;> decide

/-- A search finds the element of the lowest rank in a list that rises in rank. -/
theorem find?_of_lowest {α : Type} {l : List α} {rank : α → Nat} {q : α → Bool} {a : α}
    (ranked : l.Pairwise (fun a b => rank a < rank b)) (mem : a ∈ l) (holds : q a = true)
    (lowest : ∀ b ∈ l, q b = true → rank a ≤ rank b) : l.find? q = some a := by
  obtain ⟨front, back, rfl⟩ := List.append_of_mem mem
  refine List.find?_eq_some_iff_append.2 ⟨holds, front, back, rfl, fun b hb => ?_⟩
  have before : rank b < rank a := (List.pairwise_append.1 ranked).2.2 b hb a List.mem_cons_self
  rw [Bool.not_eq_true', ← Bool.not_eq_true]
  exact fun holds => Nat.not_lt.2 (lowest b (List.mem_append_left _ hb) holds) before

section arbiter

variable {s : State} {r : Fin 16} {c : Fin 8}

theorem State.pickTenant_eq_some (low : 1 ≤ s.rqe.pointer) (high : s.rqe.pointer ≤ 15) (tenant : r ≠ 0)
    (eligible : s.eligible r = true) (credit : 1 ≤ (s.sq r).credit)
    (first : ∀ k : Fin 16, k ≠ 0 → s.eligible k = true → 1 ≤ (s.sq k).credit →
      scanRank s.rqe.pointer r ≤ scanRank s.rqe.pointer k) : s.pickTenant = some r := by
  refine find?_of_lowest (scanFrom_ranked low high) (mem_scanFrom.2 tenant)
    (Bool.and_eq_true_iff.2 ⟨eligible, decide_eq_true credit⟩) fun k mem holds => ?_
  obtain ⟨eligible, credit⟩ := Bool.and_eq_true_iff.1 holds
  exact first k (mem_scanFrom.1 mem) eligible (of_decide_eq_true credit)

theorem State.pickTenant_eq_none (poor : ∀ k : Fin 16, k ≠ 0 → s.eligible k = true → (s.sq k).credit = 0) :
    s.pickTenant = none := by
  refine List.find?_eq_none.2 fun k mem holds => ?_
  obtain ⟨eligible, credit⟩ := Bool.and_eq_true_iff.1 holds
  have none := poor k (mem_scanFrom.1 mem) eligible
  have some := of_decide_eq_true credit
  omega

/-! ## A new round (R161) -/

theorem State.sq_newRound (k : Fin 16) : s.newRound.sq k =
    if k ≠ 0 ∧ (s.sq k).state ≠ .absent then { s.sq k with credit := (s.sq k).weight } else s.sq k := by
  simp only [State.newRound, State.sq, Fin.getElem_fin, Vector.getElem_mapFinIdx]
  by_cases h : k ≠ 0 ∧ (s.sq k).state ≠ .absent
  · rw [if_pos (by exact ⟨fun zero => h.1 (Fin.ext zero), h.2⟩)]
    exact (if_pos h).symm
  · rw [if_neg (by exact fun g => h ⟨fun zero => g.1 (congrArg Fin.val zero), g.2⟩)]
    exact (if_neg h).symm

theorem State.eligible_newRound (k : Fin 16) : s.newRound.eligible k = s.eligible k := by
  rw [State.eligible, State.sq_newRound]
  split <;> rfl

/-! ## The grant (R162) -/

/-- From `s` to `t`, the arbiter has granted ring `r` with context `c`: nothing but the ring's in-flight field, the context,
the owed count and the link differs. -/
structure Granted (s t : State) (r : Fin 16) (c : Fin 8) : Prop where
  rqe : t.rqe = { s.rqe with
    sqs := s.rqe.sqs.set r { s.sq r with inFlight := true }
    ctxs := s.rqe.ctxs.set c (.fetch r (s.sq r).head 0 s.hp.busMaster) }
  cu : ∀ q, (s.sq r).cq = q → t.cu = s.cu.set q { s.cq q with owed := (s.cq q).owed + 1 }
  hp : t.hp = (if s.hp.busMaster then
    { s.hp with bus := s.hp.bus ++ [BusTxn.entryRead c ((s.sq r).base + BitVec.ofNat 64 (128 * (s.sq r).head))] }
    else s.hp)
  ast : t.ast = s.ast
  dsp : t.dsp = s.dsp
  wtb : t.wtb = s.wtb
  lnu : t.lnu = s.lnu
  tb : t.tb = s.tb

theorem State.cu_placeIfMaster (b : BusTxn) : (s.placeIfMaster b).cu = s.cu := by
  unfold State.placeIfMaster
  split <;> rfl

theorem State.hp_placeIfMaster (b : BusTxn) :
    (s.placeIfMaster b).hp = if s.hp.busMaster then { s.hp with bus := s.hp.bus ++ [b] } else s.hp := by
  unfold State.placeIfMaster
  split <;> rfl

theorem granted_grant (s : State) (r : Fin 16) (c : Fin 8) : Granted s (s.grant r c) r c := by
  have frame := frame_placeIfMaster ((((s.setSq r { s.sq r with inFlight := true }).setCtx c
    (.fetch r (s.sq r).head 0 s.hp.busMaster)).setCq (s.sq r).cq
      { s.cq (s.sq r).cq with owed := (s.cq (s.sq r).cq).owed + 1 })) (.entryRead c ((s.sq r).entryAddr (s.sq r).head))
  exact ⟨frame.rqe, fun q hq => hq ▸ State.cu_placeIfMaster _, State.hp_placeIfMaster _, frame.ast, frame.dsp, frame.wtb, frame.lnu, frame.tb⟩

/-- A tenant ring that has paid its credit, and the pointer past it (R160). -/
def State.paid (s : State) (r : Fin 16) : State :=
  { s with rqe := { s.rqe with
      sqs := s.rqe.sqs.set r { s.sq r with credit := (s.sq r).credit - 1 }
      pointer := if r = 15 then 1 else r.val + 1 } }

theorem State.sq_paid : (s.paid r).sq r = { s.sq r with credit := (s.sq r).credit - 1 } := State.sq_setSq_self s r _

theorem State.grantTenant_eq (s : State) (r : Fin 16) (c : Fin 8) : s.grantTenant r c = (s.paid r).grant r c := by
  have pointer : nextPointer r = if r = 15 then 1 else r.val + 1 := by
    unfold nextPointer
    split <;> split <;> omega
  unfold State.paid
  rw [← pointer]
  rfl

/-- What the grant of a tenant ring leaves. -/
theorem granted_grantTenant (s : State) (r : Fin 16) (c : Fin 8) :
    (s.grantTenant r c).rqe =
      { sqs := s.rqe.sqs.set r { s.sq r with inFlight := true, credit := (s.sq r).credit - 1 }
        ctxs := s.rqe.ctxs.set c (.fetch r (s.sq r).head 0 s.hp.busMaster)
        pointer := if r = 15 then 1 else r.val + 1 }
    ∧ (∀ q, (s.sq r).cq = q → (s.grantTenant r c).cu = s.cu.set q { s.cq q with owed := (s.cq q).owed + 1 })
    ∧ (s.grantTenant r c).hp = (if s.hp.busMaster then
        { s.hp with bus := s.hp.bus ++ [BusTxn.entryRead c ((s.sq r).base + BitVec.ofNat 64 (128 * (s.sq r).head))] }
        else s.hp)
    ∧ (s.grantTenant r c).ast = s.ast ∧ (s.grantTenant r c).dsp = s.dsp ∧ (s.grantTenant r c).wtb = s.wtb
    ∧ (s.grantTenant r c).lnu = s.lnu ∧ (s.grantTenant r c).tb = s.tb := by
  have granted := granted_grant (s.paid r) r c
  rw [← State.grantTenant_eq] at granted
  refine ⟨?_, fun q hq => granted.cu q ?_, ?_, granted.ast, granted.dsp, granted.wtb, granted.lnu, granted.tb⟩
  · rw [granted.rqe, State.sq_paid]
    simp [State.paid]
  · rw [State.sq_paid]
    exact hq
  · rw [granted.hp, State.sq_paid]
    rfl

theorem State.freeCtx?_isSome_iff : s.freeCtx?.isSome = true ↔ ∃ c, s.ctx c = .free := by
  rw [State.freeCtx?, List.find?_isSome]
  simp only [beq_iff_eq]
  exact ⟨fun ⟨c, _, free⟩ => ⟨c, free⟩, fun ⟨c, free⟩ => ⟨c, by fin_cases c <;> decide, free⟩⟩

/-- With an eligible ring, the arbiter decides with a FREE context (R159, R160). -/
theorem exec_requestGrant (eligible : s.eligible r = true) :
    ∃ c, s.ctx c = .free ∧ exec .requestGrant s = .next (s.arbitrate c) := by
  obtain ⟨c, free⟩ := Option.isSome_iff_exists.1 ((s.eligible_iff r).1 eligible).2.2.2.2.2.1
  refine ⟨c, State.ctx_of_freeCtx free, ?_⟩
  show execRequestGrant s = _
  rw [execRequestGrant, free]

theorem State.arbitrate_zero (eligible : s.eligible 0 = true) : s.arbitrate c = s.grant 0 c := if_pos eligible

theorem State.arbitrate_tenant (zero : s.eligible 0 = false) (pick : s.pickTenant = some r) :
    s.arbitrate c = s.grantTenant r c := by
  rw [State.arbitrate, if_neg (Bool.eq_false_iff.1 zero), pick]

theorem State.arbitrate_round {k : Fin 16} (zero : s.eligible 0 = false) (none : s.pickTenant = none) (tenant : k ≠ 0)
    (eligible : s.eligible k = true) (pick : s.newRound.pickTenant = some r) :
    s.arbitrate c = s.newRound.grantTenant r c := by
  rw [State.arbitrate, if_neg (Bool.eq_false_iff.1 zero), none]
  dsimp only
  rw [if_pos (List.any_eq_true.2 ⟨k, mem_tenantRings.2 tenant, eligible⟩), pick]

theorem State.arbitrate_idle (idle : ∀ k, s.eligible k = false) : s.arbitrate c = s := by
  have none : s.pickTenant = none := State.pickTenant_eq_none fun k _ eligible => by
    rw [idle k] at eligible
    cases eligible
  rw [State.arbitrate, if_neg (Bool.eq_false_iff.1 (idle 0)), none]
  dsimp only
  rw [if_neg]
  intro any
  obtain ⟨k, -, eligible⟩ := List.any_eq_true.1 any
  rw [idle k] at eligible
  cases eligible

end arbiter

/-- Settles O46, by the three steps of the arbiter. -/
theorem arbiterGrants : Obligations.ArbiterGrants := by
  refine ⟨fun s eligible => ?zero, fun s r zero tenant eligible credit low high first => ?credited,
    fun s r zero tenant eligible low high poor => ?round, fun s idle => ?idle, fun s r => ?eligible⟩
  case zero =>
    obtain ⟨c, free, run⟩ := exec_requestGrant eligible
    rw [State.arbitrate_zero eligible] at run
    have granted := granted_grant s 0 c
    exact ⟨_, c, run, free, granted.rqe, granted.cu _ rfl, granted.hp, granted.ast, granted.dsp, granted.wtb, granted.lnu,
      granted.tb⟩
  case credited =>
    obtain ⟨c, free, run⟩ := exec_requestGrant eligible
    rw [State.arbitrate_tenant zero (State.pickTenant_eq_some low high tenant eligible credit first)] at run
    obtain ⟨rqe, cu, rest⟩ := granted_grantTenant s r c
    exact ⟨_, c, run, free, rqe, cu _ rfl, rest⟩
  case round =>
    obtain ⟨c, free, run⟩ := exec_requestGrant eligible
    have present {k : Fin 16} (eligible : s.eligible k = true) : (s.sq k).state ≠ .absent := by
      rw [((s.eligible_iff k).1 eligible).2.1]
      decide
    have renewed {k : Fin 16} (tenant : k ≠ 0) (here : (s.sq k).state ≠ .absent) :
        s.newRound.sq k = { s.sq k with credit := (s.sq k).weight } := by
      rw [State.sq_newRound, if_pos ⟨tenant, here⟩]
    have pick : s.newRound.pickTenant = some r := by
      refine State.pickTenant_eq_some low high tenant ((State.eligible_newRound r).trans eligible) ?_
        fun k other holds _ => (poor k other ((State.eligible_newRound k).symm.trans holds)).2.2
      rw [renewed tenant (present eligible)]
      exact (poor r tenant eligible).2.1
    rw [State.arbitrate_round zero (State.pickTenant_eq_none fun k other holds => (poor k other holds).1) tenant eligible
      pick] at run
    obtain ⟨rqe, cu, hp, rest⟩ := granted_grantTenant s.newRound r c
    rw [renewed tenant (present eligible)] at rqe cu hp
    have sq (k : Fin 16) (hk : k ≠ r) : (s.newRound.grantTenant r c).sq k = s.newRound.sq k := by
      rw [State.sq, rqe]
      exact State.sq_setSq_of_ne s.newRound _ hk
    refine ⟨_, c, run, free, ?_, ?_, fun k other hk here => (sq k hk).trans (renewed other here), ?_, fun k gone => ?_,
      fun d hd => ?_, ?_, hp, cu _ rfl, rest⟩
    · rw [State.ctx, rqe]
      exact State.ctx_setCtx_self s c _
    · rw [State.sq, rqe]
      exact State.sq_setSq_self s.newRound r _
    · rw [sq 0 tenant.symm, State.sq_newRound, if_neg fun h => h.1 rfl]
    · have hk : k ≠ r := fun same => present eligible (same ▸ gone)
      rw [sq k hk, State.sq_newRound, if_neg fun h => h.2 gone]
    · rw [State.ctx, rqe]
      exact State.ctx_setCtx_of_ne s _ hd
    · rw [rqe]
  case idle =>
    show execRequestGrant s = _
    rw [execRequestGrant]
    cases free : s.freeCtx? with
    | none => rfl
    | some c => exact congrArg Host.Outcome.next (State.arbitrate_idle idle)
  case eligible =>
    rw [State.eligible_iff, State.isReady_iff, State.freeCtx?_isSome_iff, CqContext.room]
    have hold : (r ≠ 0 ∨ (s.sq r).fetchHold = false) ↔ (r = 0 → (s.sq r).fetchHold = false) := by
      rw [ne_eq, imp_iff_not_or]
    have room : 1 ≤ (s.cq (s.sq r).cq).size - (s.cq (s.sq r).cq).unreleased - (s.cq (s.sq r).cq).owed
        ↔ 1 + (s.cq (s.sq r).cq).unreleased + (s.cq (s.sq r).cq).owed ≤ (s.cq (s.sq r).cq).size := by omega
    rw [hold, room]

end Sys2Proof.Machine

/-! Taking an entry (R163, R165, R209) and a fetch that fails (R164). -/

namespace Sys2Proof.Machine

open Sys2Proof

/-! ## The kinds and the bytes that they name (section 11.2, section 11.5.1) -/

theorem getLsbD_byteMask (off len n : Nat) (h : n < 1024) :
    (byteMask off len).getLsbD n = decide (off ≤ n / 8 ∧ n / 8 < off + len) := by
  rw [byteMask, BitVec.getLsbD_ofNat, Nat.testBit_mul_two_pow, Nat.testBit_two_pow_sub_one, Bool.eq_iff_iff]
  simp only [Bool.and_eq_true, decide_eq_true_eq]
  omega

theorem getLsbD_masks (l : List (Nat × Nat)) (m : Entry) (n : Nat) (h : n < 1024) :
    (l.foldl (fun m r => m ||| byteMask r.1 r.2) m).getLsbD n
      = (m.getLsbD n || l.any (fun b => decide (b.1 ≤ n / 8 ∧ n / 8 < b.1 + b.2))) := by
  induction l generalizing m with
  | nil => simp
  | cons b rest ih => rw [List.foldl_cons, ih, BitVec.getLsbD_or, getLsbD_byteMask _ _ _ h, List.any_cons, Bool.or_assoc]

theorem ReqKind.getLsbD_namedMask (k : ReqKind) (n : Nat) (h : n < 1024) :
    k.namedMask.getLsbD n = k.namedBytes.any (fun b => decide (b.1 ≤ n / 8 ∧ n / 8 < b.1 + b.2)) := by
  rw [ReqKind.namedMask, getLsbD_masks _ _ _ h]
  simp

/-- The tables of the model give each kind its code, its side and its bytes as section 11.5.1 and section 11.2 do. -/
theorem requestKinds_spec : ∀ p ∈ requestKinds,
    reqKindOf p.1 = some p.2.1 ∧ p.2.1.isTenant = p.2.2.1 ∧ p.2.1.namedBytes = p.2.2.2 := by decide

theorem reqKindOf_eq_some_iff {code : Nat} {k : ReqKind} :
    reqKindOf code = some k ↔ ∃ t b, (code, k, t, b) ∈ requestKinds := by
  constructor
  · intro h
    unfold reqKindOf at h
    split at h <;> cases h <;> simp [requestKinds]
  · rintro ⟨t, b, mem⟩
    exact (requestKinds_spec _ mem).1

section refusal

variable {r : Fin 16} {e : Entry} {k : ReqKind}

theorem entryRefusal_of_kind (h : reqKindOf (bytesOf e 0 1) = some k) : entryRefusal r e =
    if !reservedZero k e then some .malformed else if k.isTenant == (r == 0) then some .notPermitted else none := by
  rw [entryRefusal, show reqKindOf (kindCode e) = some k from h]

theorem reservedZero_iff : reservedZero k e = true ↔ e &&& ~~~k.namedMask = 0 := beq_iff_eq

end refusal

/-! ## An entry is taken (R163) -/

section taken

variable {s : State} {c : Fin 8} {r : Fin 16} {h timer : Nat} {l : Bool} {e : Entry}

theorem State.entryFetchOf_of_fetch (ready : s.hp.condition = .ready) (ctx : s.ctx c = .fetch r h timer l) :
    s.entryFetchOf c = some (r, h, timer, l) := by
  rw [State.entryFetchOf, if_pos (State.isReady_iff.2 ready), ctx]

theorem exec_entryTaken (ready : s.hp.condition = .ready) (ctx : s.ctx c = .fetch r h timer true)
    (refusal : entryRefusal r e = none) : exec (.entryTaken c e) s = .next (s.take c r h e) := by
  show execEntryTaken c e s = _
  rw [execEntryTaken, State.entryFetchOf_of_fetch ready ctx]
  dsimp only
  rw [refusal]
  rfl

theorem exec_entryTaken_refused {st : Status} (ready : s.hp.condition = .ready) (ctx : s.ctx c = .fetch r h timer true)
    (refusal : entryRefusal r e = some st) : exec (.entryTaken c e) s = .next
      ((s.take c r h e).completeRequest c r { status := st, time := s.tb.value, aux32 := bytesOf e 0 1 }) := by
  show execEntryTaken c e s = _
  rw [execEntryTaken, State.entryFetchOf_of_fetch ready ctx]
  dsimp only
  rw [refusal]
  rfl

theorem State.sq_take : (s.take c r h e).sq r = { s.sq r with head := ((s.sq r).head + 1) % (s.sq r).size } := by
  rw [State.take, State.sq_setCtx, State.sq_setSq_self]
  rfl

end taken

/-- Settles O47: kind by kind of refusal, on an ACTIVE and on a DELETING ring. -/
theorem entriesAreTaken : Obligations.EntriesAreTaken := by
  refine ⟨fun s u c r h timer e ready ctx hu => ?taken, fun r e => ?refusals, fun code k => reqKindOf_eq_some_iff,
    fun p mem => ?tables⟩
  case taken =>
    obtain rfl : u = s.take c r h e := hu
    refine ⟨fun passes => exec_entryTaken ready ctx passes, fun st refused active => ?_⟩
    have run := exec_entryTaken_refused ready ctx refused
    have sq := s.sq_take (c := c) (r := r) (h := h) (e := e)
    have active' : ((s.take c r h e).cq ((s.take c r h e).sq r).cq).state = .active := by
      rw [sq]
      exact active
    refine ⟨fun kept => ⟨_, run, State.answered_completeRequest _ c r _ (by rw [sq]; exact kept) active'⟩, fun deleting => ?_⟩
    obtain ⟨v, answered, retires⟩ := State.completeRequest_deleting (s.take c r h e) c r
      { status := st, time := s.tb.value, aux32 := bytesOf e 0 1 } (by rw [sq]; exact deleting) active'
    exact ⟨_, v, run, answered, retires⟩
  case refusals =>
    refine ⟨fun unknown => ?_, fun k known => ?_⟩
    · rw [entryRefusal, show reqKindOf (kindCode e) = none from unknown]
    · rw [entryRefusal_of_kind known]
      refine ⟨fun reserved => ?_, fun zero side => ?_, fun zero side => ?_⟩
      · rw [Bool.eq_false_iff.2 (mt reservedZero_iff.1 reserved)]
        rfl
      · have wrong : (k.isTenant == (r == 0)) = true := by
          rw [beq_iff_eq, Bool.eq_iff_iff, beq_iff_eq]
          exact side
        rw [reservedZero_iff.2 zero, wrong]
        rfl
      · have right : (k.isTenant == (r == 0)) = false := by
          rw [← Bool.not_eq_true, beq_iff_eq, Bool.eq_iff_iff, beq_iff_eq, side]
          exact not_iff_self
        rw [reservedZero_iff.2 zero, right]
        rfl
  case tables =>
    obtain ⟨-, side, bytes⟩ := requestKinds_spec p mem
    exact ⟨side, fun n h => by rw [ReqKind.getLsbD_namedMask _ n h, bytes]⟩

/-! ## A fetch that fails (R164) -/

/-! ### The owed count changes with a reservation alone -/

theorem CqContext.owed_settled (x : CqContext) : x.settled.owed = x.owed := by
  unfold CqContext.settled
  split <;> rfl

theorem Wrote.owed {s t : State} {q : Fin 16} {x : Completion} (h : Wrote s t q x) (k : Fin 16) :
    (t.cq k).owed = (s.cq k).owed := by
  by_cases hk : k = q
  · subst hk
    rw [h.cq_self, CqContext.owed_settled]
    rfl
  · rw [h.cq_of_ne hk]

/-- A change of one ring that keeps its owed count keeps every owed count. -/
theorem State.owed_setCq (s : State) (q k : Fin 16) {x : CqContext} (h : x.owed = (s.cq q).owed) :
    ((s.setCq q x).cq k).owed = (s.cq k).owed := by
  by_cases hk : k = q
  · subst hk
    rw [State.cq_setCq_self, h]
  · rw [State.cq_setCq_of_ne _ _ hk]

theorem State.owed_postCompletion (s : State) (q k : Fin 16) (x : Completion) :
    ((s.postCompletion q x).cq k).owed = (s.cq k).owed := by
  unfold State.postCompletion
  split
  · rfl
  · split
    · rfl
    · exact s.owed_setCq q k rfl
    · split
      · exact (wrote_writeEntry s q x).owed k
      · split
        · exact s.owed_setCq q k rfl
        · exact s.owed_setCq q k rfl

theorem State.owed_drainUpTo (q k : Fin 16) (n : Nat) (s : State) : ((State.drainUpTo q n s).cq k).owed = (s.cq k).owed := by
  induction n generalizing s with
  | zero => rfl
  | succ n ih =>
    rw [State.drainUpTo]
    split
    · rfl
    · split
      · rw [ih, (wrote_writeEntry _ q _).owed k]
        exact s.owed_setCq q k rfl
      · rfl

theorem State.owed_releaseReservation (s : State) (q : Fin 16) :
    ((s.releaseReservation q).cq q).owed = (s.cq q).owed - 1 := by
  have released : ((s.setCq q { s.cq q with owed := (s.cq q).owed - 1 }).cq q).owed = (s.cq q).owed - 1 := by
    rw [State.cq_setCq_self]
  unfold State.releaseReservation State.drain
  split
  · rw [State.owed_drainUpTo, released]
  · exact released

/-- Without held completions, nothing follows the release of a reservation. -/
theorem State.releaseReservation_of_empty {s : State} {q : Fin 16} (empty : (s.cq q).outbox = []) :
    s.releaseReservation q = s.setCq q { s.cq q with owed := (s.cq q).owed - 1 } := by
  unfold State.releaseReservation State.drain
  rw [State.cq_setCq_self]
  dsimp only
  rw [empty]
  split <;> rfl

section failed

variable (s : State) (c : Fin 8) (r : Fin 16) (h : Nat)

/-- The ring of a failed fetch. -/
def State.failedRing : SqContext := ({ s.sq r with inFlight := false } : SqContext).fetchFailed r

/-- The state in which the fetch has failed, before the notice. -/
def State.beforeNotice : State :=
  ((s.freeContext c r).releaseReservation (s.sq r).cq).setSq r (s.failedRing r)

/-- The state in which the notice of a failed fetch has been posted, before its ring may retire. -/
def State.fetchGone : State :=
  (s.beforeNotice c r).postNotice .sqFaulted r.val h (s.failedRing r).state.code 0

theorem State.sq_released : ((s.freeContext c r).releaseReservation (s.sq r).cq).sq r = { s.sq r with inFlight := false } := by
  rw [(frame_releaseReservation _ _).sq, State.freeContext, State.sq_setSq_self]

theorem State.failFetch_eq : s.failFetch c r h = (s.fetchGone c r h).retireIfDone r := by
  rw [State.failFetch, State.sq_released, State.sq_setSq_self]
  rfl

theorem State.rqe_fetchGone : (s.fetchGone c r h).rqe
    = { s.rqe with ctxs := s.rqe.ctxs.set c .free, sqs := s.rqe.sqs.set r (s.failedRing r) } := by
  rw [State.fetchGone, (frame_postNotice _ _ _ _ _ _).rqe]
  simp only [State.beforeNotice, State.setSq]
  rw [(frame_releaseReservation _ _).rqe, State.rqe_freeContext]
  simp

theorem State.sq_fetchGone : (s.fetchGone c r h).sq r = s.failedRing r := by
  rw [State.sq, State.rqe_fetchGone]
  exact State.sq_setSq_self s r _

theorem State.owed_fetchGone : ((s.fetchGone c r h).cq (s.sq r).cq).owed = (s.cq (s.sq r).cq).owed - 1 := by
  rw [State.fetchGone, State.postNotice, State.owed_postCompletion]
  exact (s.freeContext c r).owed_releaseReservation (s.sq r).cq

/-- What a failed fetch leaves alone. -/
theorem State.frame_fetchGone : (s.fetchGone c r h).ast = s.ast ∧ (s.fetchGone c r h).dsp = s.dsp
    ∧ (s.fetchGone c r h).wtb = s.wtb ∧ (s.fetchGone c r h).lnu = s.lnu ∧ (s.fetchGone c r h).tb = s.tb := by
  have released := frame_releaseReservation (s.freeContext c r) (s.sq r).cq
  have posted := frame_postNotice (s.beforeNotice c r) .sqFaulted r.val h (s.failedRing r).state.code 0
  exact ⟨posted.ast.trans released.ast, posted.dsp.trans released.dsp, posted.wtb.trans released.wtb,
    posted.lnu.trans released.lnu, posted.tb.trans released.tb⟩

variable {s r}

/-- The notice of a failed fetch is written where ring 0 has room. -/
theorem State.handsOver_fetchGone (ready : s.hp.condition = .ready) (empty : (s.cq (s.sq r).cq).outbox = [])
    (active : (s.cq 0).state = .active) (noneHeld : (s.cq 0).outbox = []) (room : 1 ≤ (s.cq 0).room) :
    HandsOver s (s.fetchGone c r h) ((s.cq 0).entryWrite 0
        { kind := .notice, status := .sqFaulted, source := r.val, aux16 := h, aux32 := (s.failedRing r).state.code
          time := s.tb.value }
        :: (s.cq 0).afterWrite.notices 0) := by
  have before : s.beforeNotice c r = (((s.freeContext c r).setCq (s.sq r).cq
      { s.cq (s.sq r).cq with owed := (s.cq (s.sq r).cq).owed - 1 })).setSq r (s.failedRing r) := by
    rw [State.beforeNotice, State.releaseReservation_of_empty (s := s.freeContext c r) empty]
    rfl
  obtain ⟨n, ring, owed⟩ : ∃ n, (s.beforeNotice c r).cq 0 = { s.cq 0 with owed := n } ∧ n ≤ (s.cq 0).owed := by
    rw [before]
    by_cases own : 0 = (s.sq r).cq
    · refine ⟨(s.cq 0).owed - 1, ?_, Nat.sub_le _ _⟩
      rw [← own]
      exact State.cq_setCq_self (s.freeContext c r) 0 _
    · exact ⟨(s.cq 0).owed, State.cq_setCq_of_ne (s.freeContext c r) _ own, Nat.le_refl _⟩
  have hp : (s.beforeNotice c r).hp = s.hp := by rw [before]; rfl
  have alive : Lives (s.beforeNotice c r) := by
    rw [Lives, hp, ready]
    decide
  have now : (s.beforeNotice c r).now = s.tb.value := by rw [before]; rfl
  rw [State.fetchGone, State.postNotice, now, State.postCompletion_of_room _ alive (by rw [ring]; exact active)
    (by rw [ring]; exact noneHeld) (by rw [ring]; unfold CqContext.room at room ⊢; dsimp only; omega)]
  refine .of_hp ((wrote_writeEntry (s.beforeNotice c r) 0 _).handsOver.1.trans ?_)
  rw [ring, hp]
  rfl

end failed

section fetchCommands

variable {s : State} {c : Fin 8} {r : Fin 16} {h timer : Nat} {l : Bool}

theorem exec_entryFetchFailed (ready : s.hp.condition = .ready) (ctx : s.ctx c = .fetch r h timer l) :
    exec (.entryFetchFailed c) s = .next (s.failFetch c r h) := by
  show execEntryFetchFailed c s = _
  rw [execEntryFetchFailed, State.entryFetchOf_of_fetch ready ctx]

/-- The timeout does what a failure does from the state in which the read is noted as stale, and nothing before 100 µs. -/
theorem exec_entryFetchTimeout (ready : s.hp.condition = .ready) (ctx : s.ctx c = .fetch r h timer l) :
    (l = true → 100000 ≤ timer → ∃ v, exec (.entryFetchTimeout c) s = .next v
      ∧ exec (.entryFetchFailed c) (s.noteStale (.entry c)) = .next v)
    ∧ (timer < 100000 → exec (.entryFetchTimeout c) s = .next s) := by
  have run : exec (.entryFetchTimeout c) s = .next
      (if l = true ∧ 100000 ≤ timer then (s.noteStale (.entry c)).failFetch c r h else s) := by
    show execEntryFetchTimeout c s = _
    rw [execEntryFetchTimeout, State.entryFetchOf_of_fetch ready ctx]
    rfl
  rw [run]
  refine ⟨fun onLink late => ?_, fun early => ?_⟩
  · rw [if_pos ⟨onLink, late⟩]
    exact ⟨_, rfl, exec_entryFetchFailed (s := s.noteStale (.entry c)) ready ctx⟩
  · rw [if_neg fun late => Nat.not_le.2 early late.2]

end fetchCommands

/-- Settles O48: what `failFetch` does (`fetchGone`), for the failure and for the timeout. -/
theorem fetchesFail : Obligations.FetchesFail := by
  refine ⟨fun s c r q h timer l ready ctx active hq => ?active, fun s c r q h timer l ready ctx tenant deleting hq => ?deleting,
    fun s x => rfl⟩
  case active =>
    subst hq
    have ring : s.failedRing r = { s.sq r with
        inFlight := false, fetchHold := if r = 0 then true else (s.sq r).fetchHold
        state := if r = 0 then .active else .faulted } := by
      unfold State.failedRing SqContext.fetchFailed
      by_cases zero : r = 0
      · rw [if_pos zero, if_pos zero, if_pos zero, ← active]
      · rw [if_neg zero, if_neg zero, if_neg zero]
        dsimp only
        rw [if_pos active]
    have kept : s.failFetch c r h = s.fetchGone c r h := by
      rw [State.failFetch_eq, State.retireIfDone_of_not_deleting]
      rw [State.sq_fetchGone, ring]
      dsimp only
      split <;> decide
    have code : (s.failedRing r).state.code = if r = 0 then 1 else 2 := by
      rw [ring]
      dsimp only
      split <;> rfl
    obtain ⟨ast, dsp, wtb, lnu, tb⟩ := s.frame_fetchGone c r h
    refine ⟨s.fetchGone c r h, kept ▸ exec_entryFetchFailed ready ctx, ring ▸ s.rqe_fetchGone c r h, s.owed_fetchGone c r h,
      fun empty up noneHeld room => ?_, ast, dsp, wtb, lnu, tb, exec_entryFetchTimeout ready ctx⟩
    rw [← code]
    exact State.handsOver_fetchGone c h ready empty up noneHeld room
  case deleting =>
    subst hq
    have ring : s.failedRing r = { s.sq r with inFlight := false } := by
      unfold State.failedRing SqContext.fetchFailed
      rw [if_neg tenant]
      dsimp only
      rw [if_neg (by rw [deleting]; decide)]
    have code : (s.failedRing r).state.code = 3 := by
      rw [ring]
      dsimp only
      rw [deleting]
      rfl
    obtain ⟨ast, dsp, wtb, lnu, tb⟩ := s.frame_fetchGone c r h
    refine ⟨_, s.fetchGone c r h, exec_entryFetchFailed ready ctx, ring ▸ s.rqe_fetchGone c r h, s.owed_fetchGone c r h,
      fun empty up noneHeld room => ?_, ast, dsp, wtb, lnu, tb, ?_, exec_entryFetchTimeout ready ctx⟩
    · rw [← code]
      exact State.handsOver_fetchGone c h ready empty up noneHeld room
    · rw [State.failFetch_eq]
      refine State.retireIfDone_deleting ?_
      rw [State.sq_fetchGone, ring]
      exact deleting

end Sys2Proof.Machine

/-! CREATE and DELETE SUBMISSION RING (R168 to R170). -/

namespace Sys2Proof.Machine

open Sys2Proof

section create

variable {s : State} {c : Fin 8} {e : Entry} {n : Fin 16}

theorem exec_createSq_noNumber (h : AdminWaits s c .createSq e) (number : finOf 16 (bytesOf e 1 1) = none) :
    exec (.createSubmissionRing c) s = .next (s.completeRequest c 0 { status := .noRing, time := s.tb.value }) := by
  show execCreateSubmissionRing c s = _
  rw [execCreateSubmissionRing, h.requestOf]
  dsimp only
  rw [number]
  rfl

theorem exec_createSq_refused {st : Status} (h : AdminWaits s c .createSq e) (number : finOf 16 (bytesOf e 1 1) = some n)
    (refused : s.newSq n e = .error st) : exec (.createSubmissionRing c) s = .next (s.completeRequest c 0
      { status := st, time := s.tb.value, aux32 := (s.sq n).state.code,
        value := if st = .alreadyExists then BitVec.ofNat 64 (s.sq n).tenant else 0 }) := by
  show execCreateSubmissionRing c s = _
  rw [execCreateSubmissionRing, h.requestOf]
  dsimp only
  rw [number]
  dsimp only
  rw [refused]
  rfl

theorem exec_createSq {x : SqContext} (h : AdminWaits s c .createSq e) (number : finOf 16 (bytesOf e 1 1) = some n)
    (made : s.newSq n e = .ok x) : exec (.createSubmissionRing c) s = .next ((s.setSq n x).completeRequest c 0
      { status := .ok, time := s.tb.value, aux32 := (s.sq n).state.code, value := BitVec.ofNat 64 x.tenant }) := by
  show execCreateSubmissionRing c s = _
  rw [execCreateSubmissionRing, h.requestOf]
  dsimp only
  rw [number]
  dsimp only
  rw [made]
  rfl

theorem State.newSq_zero : s.newSq 0 e = .error .noRing := if_pos rfl

theorem State.newSq_of_exists (tenant : n ≠ 0) (here : (s.sq n).state ≠ .absent) : s.newSq n e = .error .alreadyExists := by
  rw [State.newSq, if_neg tenant, if_pos here]

/-- Checks 3 of R168 fails: the completion ring that the entry names is not ACTIVE. -/
theorem State.newSq_of_noRing (tenant : n ≠ 0) (absent : (s.sq n).state = .absent)
    (gone : ∀ q : Fin 16, bytesOf e 3 1 = q.val → (s.cq q).state ≠ .active) : s.newSq n e = .error .noRing := by
  rw [State.newSq, if_neg tenant, if_neg (not_not.2 absent)]
  cases ring : finOf 16 (bytesOf e 3 1) with
  | none => rfl
  | some q =>
    dsimp only
    rw [if_pos (gone q (finOf_eq_some_iff.1 ring))]

theorem baseOk_iff {a : Addr} : baseOk a = true ↔ a.toNat % 4096 = 0 := beq_iff_eq

/-- The last check of R168 and the context of a new ring. -/
theorem State.newSq_of_active {q : Fin 16} (tenant : n ≠ 0) (absent : (s.sq n).state = .absent)
    (ring : bytesOf e 3 1 = q.val) (active : (s.cq q).state = .active) : s.newSq n e =
      if 1 ≤ bytesOf e 2 1 ∧ bytesOf e 2 1 ≤ 15 ∧ baseOk (e.extractLsb' 64 64) = true ∧ ringSizeOk (bytesOf e 16 2) = true
          ∧ 1 ≤ bytesOf e 4 1 ∧ bytesOf e 4 1 ≤ 8 then
        .ok { state := .active, tenant := bytesOf e 2 1, base := e.extractLsb' 64 64, size := bytesOf e 16 2, head := 0
              tail := 0, cq := q, weight := bytesOf e 4 1, inFlight := false, fetchHold := false
              credit := bytesOf e 4 1 }
      else .error .badField := by
  rw [State.newSq, if_neg tenant, if_neg (not_not.2 absent), finOf_eq_some_iff.2 ring]
  dsimp only
  rw [if_neg (not_not.2 active)]

end create

section delete

variable {s : State} {c : Fin 8} {e : Entry} {n : Fin 16}

theorem exec_deleteSq_refused {st : Status} (h : AdminWaits s c .deleteSq e)
    (refused : s.deleteSqRefusal (bytesOf e 1 1) = some st) :
    exec (.deleteSubmissionRing c) s = .next (s.completeRequest c 0 { status := st, time := s.tb.value }) := by
  show execDeleteSubmissionRing c s = _
  rw [execDeleteSubmissionRing, h.requestOf]
  dsimp only
  rw [refused]
  rfl

theorem exec_deleteSq (h : AdminWaits s c .deleteSq e) (accepted : s.deleteSqRefusal (bytesOf e 1 1) = none)
    (number : finOf 16 (bytesOf e 1 1) = some n) : exec (.deleteSubmissionRing c) s = .next
      (((s.deleteSq n).completeRequest c 0
        { status := .ok, time := s.tb.value, aux32 := s.sweepRemoved n,
          value := BitVec.ofNat 64 ((s.deleteSq n).slotsOfRing n).length }).retireIfDone n) := by
  show execDeleteSubmissionRing c s = _
  rw [execDeleteSubmissionRing, h.requestOf]
  dsimp only
  rw [accepted, number]
  rfl

theorem State.deleteSqRefusal_of_number (tenant : n ≠ 0) (number : bytesOf e 1 1 = n.val) :
    s.deleteSqRefusal (bytesOf e 1 1) = if (s.sq n).state = .absent then some .noRing
      else if (s.sq n).state = .deleting then some .wrongState else none := by
  have notZero : bytesOf e 1 1 ≠ 0 := fun zero => tenant (Fin.ext (number.symm.trans zero))
  rw [State.deleteSqRefusal, if_neg notZero, finOf_eq_some_iff.2 number]

theorem State.length_slotsOfRing : (s.slotsOfRing n).length = s.ast.slots.countP (fun p => decide (p.2.ring = n)) := by
  rw [State.slotsOfRing, ← List.countP_eq_length_filter]
  exact List.countP_congr fun p _ => by rw [beq_iff_eq, decide_eq_true_eq]

end delete

/-- Settles O49: the checks in their order, then what a new ring and a DELETING one hold. -/
theorem submissionRingCommands : Obligations.SubmissionRingCommands := by
  constructor
  · intro s c e waits
    obtain ⟨t, run, -⟩ := commandsKeepTheQueue (.createSubmissionRing c) s
    have answered (x : Result) := waits.answered s x rfl rfl
    refine ⟨t, run, fun high => ?_, fun zero => ?_, fun n tenant number => ⟨fun here => ?_, fun absent gone => ?_, ?_⟩⟩
    · exact next_unique run (exec_createSq_noNumber waits (finOf_eq_none_iff.2 high)) ▸ answered _
    · have same := next_unique run (exec_createSq_refused waits (n := 0) (finOf_eq_some_iff.2 zero) State.newSq_zero)
      have active : (s.sq 0).state = .active := waits.2.2.2.1
      rw [active] at same
      exact same ▸ answered _
    · exact next_unique run (exec_createSq_refused waits (finOf_eq_some_iff.2 number) (State.newSq_of_exists tenant here))
        ▸ answered _
    · have same := next_unique run
        (exec_createSq_refused waits (finOf_eq_some_iff.2 number) (State.newSq_of_noRing tenant absent gone))
      rw [absent] at same
      exact same ▸ answered _
    · rintro q tenants weight size base absent ring active rfl rfl rfl rfl
      have made := State.newSq_of_active (s := s) tenant absent ring active
      refine ⟨fun bad => ?_, fun low high aligned ok light heavy => ?_⟩
      · rw [if_neg] at made
        · have same := next_unique run (exec_createSq_refused waits (finOf_eq_some_iff.2 number) made)
          rw [absent] at same
          exact same ▸ answered _
        · rintro ⟨low, high, aligned, ok, light, heavy⟩
          obtain ⟨k, lowest, highest, power⟩ := (ringSizeOk_iff _).1 ok
          rcases bad with zero | above | off | noPower | none | above
          · omega
          · omega
          · exact off (baseOk_iff.1 aligned)
          · exact noPower k lowest highest power
          · omega
          · omega
      · rw [if_pos ⟨low, high, baseOk_iff.2 aligned, (ringSizeOk_iff _).2 ok, light, heavy⟩] at made
        have same := next_unique run (exec_createSq waits (finOf_eq_some_iff.2 number) made)
        rw [absent] at same
        exact same ▸ waits.answered _ _ (State.sq_setSq_of_ne s _ tenant.symm) rfl
  · intro s c e waits
    have answered (x : Result) := waits.answered s x rfl rfl
    obtain ⟨t, run, -⟩ := commandsKeepTheQueue (.deleteSubmissionRing c) s
    have refused {st : Status} (h : s.deleteSqRefusal (bytesOf e 1 1) = some st) :
        Answered s t c 0 { status := st, time := s.tb.value } :=
      next_unique run (exec_deleteSq_refused waits h) ▸ answered _
    refine ⟨t, run, fun zero => refused (if_pos zero), fun high => refused ?_, fun n tenant number => ?_⟩
    · rw [State.deleteSqRefusal, if_neg (by omega), finOf_eq_none_iff.2 high]
    have verdict := State.deleteSqRefusal_of_number (s := s) tenant number
    refine ⟨fun absent => refused ?_, fun deleting => refused ?_, fun u here hu => ?_⟩
    · rw [verdict, if_pos absent]
    · rw [verdict, if_neg (by rw [deleting]; decide), if_pos deleting]
    · obtain rfl : u = s.deleteSq n := hu
      have accepted : s.deleteSqRefusal (bytesOf e 1 1) = none := by
        rw [verdict, if_neg, if_neg]
        · rcases here with state | state <;> rw [state] <;> decide
        · rcases here with state | state <;> rw [state] <;> decide
      have same := next_unique run (exec_deleteSq waits accepted (finOf_eq_some_iff.2 number))
      rw [State.length_slotsOfRing, State.sweepRemoved_eq] at same
      have zero : (s.deleteSq n).sq 0 = s.sq 0 := State.sq_setSq_of_ne s _ tenant.symm
      have done := waits.answered (s.deleteSq n)
        { status := .ok, time := s.tb.value
          aux32 := s.ast.slots.countP (fun p => decide (p.2.ring = n
            ∧ (p.2.state = .armed ∨ p.2.state = .awaiting ∨ p.2.state = .listening)))
          value := BitVec.ofNat 64 ((s.deleteSq n).ast.slots.countP (fun p => decide (p.2.ring = n))) } zero rfl
      generalize (s.deleteSq n).completeRequest c 0 _ = v at same done
      have sq : v.sq n = { s.sq n with state := .deleting } := by
        rw [State.sq, done.rqe]
        exact (State.sq_setSq_of_ne (s.deleteSq n) _ tenant).trans (State.sq_setSq_self s n _)
      have retires : RetiresIfEmpty v t n := same ▸ State.retireIfDone_deleting (by rw [sq])
      refine ⟨v, done, rfl, fun law id => ⟨State.slot?_sweepRing_of_none (s := s.setSq n _) law.1 n,
        fun x => State.slot?_sweepRing_of_some (s := s.setSq n _) law.1 n⟩, fun removed law isRemoved => ?_, rfl, rfl, rfl,
        rfl, fun busy => ?_, fun empty idle => ?_⟩
      · obtain ⟨-, inSchedule, -, inCalendar, listen⟩ := (s.setSq n { s.sq n with state := .deleting }).sweepRing_places n
          (fun id => (State.sweepGone_iff law.1 n id).trans (isRemoved id).symm)
        exact ⟨inSchedule, inCalendar, fun l => (listen l).2⟩
      · have stays : t = v := retires.waits (by rw [sq, done.ast]; exact busy.symm)
        exact ⟨stays, by rw [stays, sq]⟩
      · have gone := retires.retires (by rw [sq]; exact idle) (by rw [done.ast]; exact empty)
        rw [sq, done.tb] at gone
        refine ⟨?_, gone⟩
        rw [gone, (frame_postCompletion _ _ _).sq, State.sq_setSq_self]

end Sys2Proof.Machine

/-! RELEASE (R185, R186, R189), what becomes of a completion (R181, R190, R191), and the writes that wait (R177, R187). -/

namespace Sys2Proof.Machine

open Sys2Proof

/-! ## RELEASE (R185, R186, R189) -/

section release

variable {s : State} {d : Word64}

theorem State.releaseAccepted_iff : s.releaseAccepted d = true ↔
    d.extractLsb' 20 44 = 0 ∧ (s.cq (wordRing d)).state ≠ .absent ∧ wordIndex d < (s.cq (wordRing d)).size
    ∧ (s.cq (wordRing d)).releases (wordIndex d) ≤ (s.cq (wordRing d)).unreleased := by
  simp only [State.releaseAccepted, wordReserved, Bool.and_eq_true, Bool.not_eq_true', bne_eq_false_iff_eq, bne_iff_ne,
    decide_eq_true_iff, and_assoc]

/-- R186: each ground for not applying a RELEASE, one by one. -/
theorem State.releaseAccepted_eq_false_iff : s.releaseAccepted d = false ↔
    d.extractLsb' 20 44 ≠ 0 ∨ (s.cq (wordRing d)).state = .absent ∨ (s.cq (wordRing d)).size ≤ wordIndex d
    ∨ (s.cq (wordRing d)).unreleased < (s.cq (wordRing d)).releases (wordIndex d) := by
  rw [← Bool.not_eq_true, State.releaseAccepted_iff, not_and_or, not_and_or, not_and_or, not_lt, not_le, not_not]

theorem exec_release_not_ready (h : s.hp.condition ≠ .ready) : exec (.release d) s = .next s :=
  congrArg Host.Outcome.next (if_neg (mt State.isReady_iff.1 h))

theorem exec_release_accepted (ready : s.hp.condition = .ready) (accepted : s.releaseAccepted d = true) :
    exec (.release d) s = .next (s.applyRelease (wordRing d) (wordIndex d)) := by
  show Host.Outcome.next (s.writeRelease d) = _
  rw [State.writeRelease, if_pos (State.isReady_iff.2 ready), if_pos accepted]

theorem exec_release_refused (ready : s.hp.condition = .ready) (refused : s.releaseAccepted d = false) :
    exec (.release d) s = .next (s.badRelease d) := by
  show Host.Outcome.next (s.writeRelease d) = _
  rw [State.writeRelease, if_pos (State.isReady_iff.2 ready), if_neg (Bool.eq_false_iff.1 refused)]

end release

/-! ### A ring to which several entries are written -/

theorem CqContext.settled_unreleased (x : CqContext) : x.settled.unreleased = x.unreleased := by
  unfold CqContext.settled
  split <;> rfl

theorem CqContext.settled_consumer (x : CqContext) : x.settled.consumer = x.consumer := by
  unfold CqContext.settled
  split <;> rfl

/-- What `n` entries written to a ring count for, and what they leave. -/
theorem CqContext.wrote_counts (n : Nat) (x : CqContext) : (x.wrote n).unreleased = x.unreleased + n
    ∧ (x.wrote n).owed = x.owed ∧ (x.wrote n).consumer = x.consumer ∧ (x.wrote n).room = x.room - n := by
  induction n generalizing x with
  | zero => exact ⟨rfl, rfl, rfl, rfl⟩
  | succ n ih =>
    obtain ⟨unreleased, owed, consumer, room⟩ := ih x.afterWrite.settled
    rw [CqContext.wrote, unreleased, owed, consumer, room, CqContext.settled_unreleased, CqContext.owed_settled,
      CqContext.settled_consumer, CqContext.afterWrite_room]
    refine ⟨?_, rfl, rfl, by omega⟩
    show x.unreleased + 1 + n = _
    omega

/-- Settles O50: the branches of a RELEASE, and for an ACTIVE ring what re-arming, notifying and draining leave
together. -/
theorem releaseFreesEntries : Obligations.ReleaseFreesEntries := by
  intro s d q i r index ring hr
  obtain rfl : i = wordIndex d := index
  obtain rfl := eq_wordRing ring
  obtain rfl : r = (s.cq (wordRing d)).releases (wordIndex d) := hr
  refine ⟨fun notReady => exec_release_not_ready notReady, fun ready reserved faulted below enough => ?faulted,
    fun x n ready reserved active below enough hx hn => ?active, fun ready grounds => ?refused⟩
  case faulted =>
    rw [exec_release_accepted ready (State.releaseAccepted_iff.2 ⟨reserved, by rw [faulted]; decide, below, enough⟩),
      State.applyRelease, if_neg (by rw [faulted]; decide)]
    rfl
  case active =>
    have run := exec_release_accepted ready
      (State.releaseAccepted_iff.2 ⟨reserved, by rw [active]; decide, below, enough⟩)
    obtain rfl : x = ((s.cq (wordRing d)).released (wordIndex d)).rearmed := hx
    obtain ⟨hp, cu⟩ := s.applyRelease_effect (wordRing d) (wordIndex d) n _ active rfl hn
    have frame := frame_applyRelease s (wordRing d) (wordIndex d)
    generalize hq : wordRing d = q at *
    generalize s.applyRelease q (wordIndex d) = t at *
    generalize hx : ((s.cq q).released (wordIndex d)).rearmed = x at *
    have own : t.cq q = { x.settled.wrote n with outbox := (s.cq q).outbox.drop n } := by
      rw [State.cq, cu, ← hx]
      exact State.cq_setCq_self s q _
    obtain ⟨unreleased, owed, consumer, room⟩ := CqContext.wrote_counts n x.settled
    have held : x.outbox = (s.cq q).outbox := by rw [← hx]; rfl
    have left : x.unreleased = (s.cq q).unreleased - (s.cq q).releases (wordIndex d) := by rw [← hx]; rfl
    have space : x.room = (s.cq q).size - x.unreleased - (s.cq q).owed := by rw [← hx]; rfl
    rw [← left, ← space] at hn
    rw [held] at hp
    refine ⟨t, run, fun empty => ?_, own, .of_hp hp, ?_, ?_, ?_, ?_, fun k hk => ?_, frame.rqe, frame.ast, frame.dsp,
      frame.wtb, frame.lnu, frame.tb⟩
    · have none : n = 0 := by
        rw [empty] at hn
        exact hn.trans (Nat.zero_min _)
      rw [none, empty] at own hp
      rw [own]
      refine ⟨?_, .of_hp (by simpa [CqContext.writes] using hp)⟩
      have nil : x.settled.outbox = [] := by rw [CqContext.settled_outbox, held, empty]
      show { x.settled with outbox := ([] : List Completion).drop 0 } = x.settled
      rw [List.drop_zero, ← nil]
    · rw [own]
      show (x.settled.wrote n).consumer = _
      rw [consumer, CqContext.settled_consumer, ← hx]
      rfl
    · rw [own]
      show (x.settled.wrote n).owed = _
      rw [owed, CqContext.owed_settled, ← hx]
      rfl
    · rw [own]
      show (x.settled.wrote n).unreleased + ((s.cq q).outbox.drop n).length = _
      rw [unreleased, CqContext.settled_unreleased, List.length_drop, left]
      omega
    · rw [own]
      show (s.cq q).outbox.drop n = [] ∨ (x.settled.wrote n).room = 0
      rw [room, CqContext.settled_room, List.drop_eq_nil_iff]
      omega
    · rw [State.cq, cu]
      exact State.cq_setCq_of_ne s _ hk
  case refused =>
    rw [exec_release_refused ready (State.releaseAccepted_eq_false_iff.2 grounds)]
    rfl

/-! ## What becomes of a completion (R181, R183, R190, R191) -/

section post

variable {s : State} {q : Fin 16} (c : Completion)

theorem State.postCompletion_of_stopped (dead : ¬ Lives s) : s.postCompletion q c = s := by
  rw [State.postCompletion, State.live_eq_false_iff.2 dead]
  rfl

theorem State.postCompletion_of_absent (absent : (s.cq q).state = .absent) : s.postCompletion q c = s := by
  rw [State.postCompletion, absent]
  split <;> rfl

theorem State.postCompletion_of_faulted (alive : Lives s) (faulted : (s.cq q).state = .faulted) :
    s.postCompletion q c = s.loseCompletion q := by
  rw [State.postCompletion, (State.live_iff s).2 alive, faulted]
  rfl

/-- A completion that is not written is held while the pool has an entry, and else lost. -/
theorem State.postCompletion_of_full (alive : Lives s) (active : (s.cq q).state = .active)
    (full : (s.cq q).outbox ≠ [] ∨ (s.cq q).room = 0) : s.postCompletion q c
      = if s.poolUsed < 64 then s.setCq q { s.cq q with outbox := (s.cq q).outbox ++ [c] } else s.loseCompletion q := by
  have notNow : ¬ ((s.cq q).outbox.isEmpty && decide (1 ≤ (s.cq q).room)) = true := by
    rw [Bool.and_eq_true, List.isEmpty_iff, decide_eq_true_eq]
    rintro ⟨empty, room⟩
    rcases full with held | none
    · exact held empty
    · omega
  rw [State.postCompletion, (State.live_iff s).2 alive, active]
  exact if_neg notNow

end post

theorem State.setCq_setCq (s : State) (q : Fin 16) (x y : CqContext) : (s.setCq q x).setCq q y = s.setCq q y := by
  simp [State.setCq]

/-- Settles O51: the branches of `postCompletion`. -/
theorem completionsAreWrittenHeldOrLost : Obligations.CompletionsAreWrittenHeldOrLost := by
  refine ⟨fun s q c r x faulted hq kept => ?request, fun s q c =>
    ⟨fun alive active empty room => ?written, fun alive active full pool => ?held, fun alive active full pool => ?lost,
      fun alive faulted => State.postCompletion_of_faulted c alive faulted,
      fun absent => State.postCompletion_of_absent c absent, fun dead => State.postCompletion_of_stopped c dead⟩⟩
  case request =>
    subst hq
    have sq : (((s.writeRequestCompletion (s.sq r).cq (x.completion r (s.sq r).head)).freeContext c r).sq r).state
        ≠ .deleting := by
      rw [State.freeContext, State.sq_setSq_self]
      show (((s.writeRequestCompletion _ _).sq r).state) ≠ _
      rw [(frame_writeRequestCompletion _ _ _).sq]
      exact kept
    rw [State.completeRequest, State.retireIfDone_of_not_deleting _ _ sq, State.writeRequestCompletion_of_faulted _ faulted]
    rw [State.loseCompletion, State.cq_setCq_self, State.setCq_setCq]
    rfl
  case written =>
    rw [State.postCompletion_of_room c alive active empty room]
    exact ⟨(wrote_writeEntry s q c).handsOver, (wrote_writeEntry s q c).cu⟩
  case held => rw [State.postCompletion_of_full c alive active full, if_pos pool]
  case lost =>
    rw [State.postCompletion_of_full c alive active full, if_neg (Nat.not_lt.2 pool)]
    rfl

/-! ## Writes that wait for the link, and the hold timer (R177, R187, R188) -/

theorem CqContext.holdReached_iff {x : CqContext} :
    x.holdReached = true ↔ ∃ n, x.holdTimer = some n ∧ 1000 * x.hold ≤ n := by
  unfold CqContext.holdReached
  cases x.holdTimer <;> simp

/-- When a notification is due (R187). -/
theorem CqContext.notifyDue_iff {x : CqContext} : x.notifyDue = true ↔
    x.state = .active ∧ x.notify = .armed ∧ x.notifyAddr ≠ 0
    ∧ (x.threshold ≤ x.pending ∨ (1 ≤ x.pending ∧ ∃ n, x.holdTimer = some n ∧ 1000 * x.hold ≤ n)) := by
  simp only [CqContext.notifyDue, Bool.and_eq_true, Bool.or_eq_true, beq_iff_eq, bne_iff_ne, decide_eq_true_eq,
    CqContext.holdReached_iff, and_assoc]

theorem CqContext.notices_of_due {x : CqContext} (q : Fin 16) (due : x.notifyDue = true) :
    x.notices q = [.notify q x.notifyAddr x.notifyValue] ∧ x.settled = x.notified :=
  ⟨if_pos due, if_pos due⟩

theorem CqContext.notices_of_not_due {x : CqContext} (q : Fin 16) (notDue : ¬ x.notifyDue = true) :
    x.notices q = [] ∧ x.settled = x :=
  ⟨if_neg notDue, if_neg notDue⟩

theorem HostPort.linkOpen_iff {h : HostPort} : h.linkOpen = true ↔ h.posted = [] ∧ 0 < h.credits := by
  rw [HostPort.linkOpen, Bool.and_eq_true, List.isEmpty_iff, decide_eq_true_eq]

/-- Settles O52: accepted writes, the hold timer, and what the hand-over of a write does to ring and port. -/
theorem waitingWritesAndHoldTimers : Obligations.WaitingWritesAndHoldTimers := by
  refine ⟨fun s w rest posted master => ?accepted, fun s q n ready active timer => ?timer, fun h w => ?taken,
    fun x q c => ?ring⟩
  case accepted =>
    refine ⟨{ s with hp := { s.hp with posted := rest, bus := s.hp.bus ++ [w.txn] } }, ?_, rfl, ?_⟩
    · show execCuWriteAcceptedByLink s = _
      rw [execCuWriteAcceptedByLink, posted]
      dsimp only
      rw [if_pos master]
      rfl
    · unfold State.handed
      rw [posted]
      simp only [List.filterMap_append, List.append_assoc]
      cases w <;> rfl
  case timer =>
    refine ⟨fun reached armed addr pending => ?_, fun early => ?_⟩
    · have held : (s.cq q).holdReached = true := CqContext.holdReached_iff.2 ⟨n, timer, reached⟩
      have due : (s.cq q).notifyDue = true :=
        CqContext.notifyDue_iff.2 ⟨active, armed, addr, .inr ⟨pending, n, timer, reached⟩⟩
      obtain ⟨notices, settled⟩ := CqContext.notices_of_due q due
      have frame := frame_notifyIfDue s q
      refine ⟨s.notifyIfDue q, ?_, .of_hp (notices ▸ State.hp_notifyIfDue s q), 
        (State.cu_notifyIfDue s q).trans (by rw [settled]; rfl),
        frame.rqe, frame.ast, frame.dsp, frame.wtb, frame.lnu, frame.tb⟩
      show execHoldTimerExpired q s = _
      rw [execHoldTimerExpired, State.isReady_iff.2 ready, held]
      rfl
    · have running : ¬ (s.cq q).holdReached = true := fun h => by
        obtain ⟨m, same, reached⟩ := CqContext.holdReached_iff.1 h
        rw [timer] at same
        cases same
        omega
      show execHoldTimerExpired q s = _
      rw [execHoldTimerExpired, if_neg]
      exact fun h => running (Bool.and_eq_true_iff.1 h).2
  case taken =>
    refine ⟨fun master free credit => ?_, fun master busy => ?_, fun noMaster => ?_, rfl, fun ws => rfl, fun s => rfl⟩
    · rw [HostPort.takeCuWrite, if_pos master, if_pos (HostPort.linkOpen_iff.2 ⟨free, credit⟩)]
      cases w <;> rfl
    · rw [HostPort.takeCuWrite, if_pos master, if_neg]
      rw [HostPort.linkOpen_iff]
      rintro ⟨free, credit⟩
      rcases busy with waits | none
      · exact waits free
      · omega
    · rw [HostPort.takeCuWrite, if_neg (Bool.eq_false_iff.1 noMaster)]
  case ring =>
    refine ⟨rfl, rfl, fun inside => ?_, fun due => CqContext.notices_of_due q (CqContext.notifyDue_iff.2 due),
      fun notDue => CqContext.notices_of_not_due q (mt CqContext.notifyDue_iff.1 notDue)⟩
    have next : (x.produced + 1) % x.size = if x.produced + 1 = x.size then 0 else x.produced + 1 := by
      split
      · rename_i wraps
        rw [wraps, Nat.mod_self]
      · exact Nat.mod_eq_of_lt (by omega)
    rw [CqContext.afterWrite, next]

end Sys2Proof.Machine

/-! Failed completion writes: the FAULTED ring and FATAL (R190, R191, R204, R205). -/

namespace Sys2Proof.Machine

open Sys2Proof

/-! ## What a stop by FATAL or teardown does to an engine (R93, R94, R112) -/

section stops

variable (s : State) (e : Fin 4) (k : Stop)

theorem State.stopRunning_of_waits (waits : (s.engine e).path.phase = .readWait ∨ (s.engine e).path.phase = .lineWait) :
    s.stopRunning e k = s.setEngine e { s.engine e with stop := some k } := by
  unfold State.stopRunning
  rcases waits with phase | phase <;> rw [phase]

/-- An engine that waits for no answer stops at once; of the writes that wait for the link no CU write is withdrawn. -/
theorem State.stopRunning_of_not_waits (noRead : (s.engine e).path.phase ≠ .readWait)
    (noLine : (s.engine e).path.phase ≠ .lineWait) : ∃ posted, posted.filter Posted.isCu = s.hp.posted.filter Posted.isCu
      ∧ s.stopRunning e k = ({ s with hp := { s.hp with posted := posted } }).afterStop e k := by
  unfold State.stopRunning
  split
  case h_1 phase => exact absurd phase noRead
  case h_2 phase => exact absurd phase noLine
  case h_3 =>
    refine ⟨s.hp.posted.filter (fun p => p != .op e), ?_, rfl⟩
    rw [List.filter_filter]
    refine List.filter_congr fun p _ => ?_
    cases p <;> rfl
  all_goals exact ⟨s.hp.posted, rfl, rfl⟩

end stops

/-! ## FATAL (R205) -/

/-- What FATAL leaves of an engine (R93). -/
def Engine.underFatal (x : Engine) : Engine :=
  match x.state with
  | .idle | .halted => x
  | .bound => x.haltedFrom
  | .running => if x.path.phase = .readWait ∨ x.path.phase = .lineWait then { x with stop := some .fatal } else x.haltedFrom

section

variable {x : Engine}

theorem Engine.underFatal_of_idle (h : x.state = .idle) : x.underFatal = x := by rw [Engine.underFatal, h]

theorem Engine.underFatal_of_halted (h : x.state = .halted) : x.underFatal = x := by rw [Engine.underFatal, h]

theorem Engine.underFatal_of_bound (h : x.state = .bound) : x.underFatal = x.haltedFrom := by rw [Engine.underFatal, h]

theorem Engine.underFatal_of_running (h : x.state = .running) : x.underFatal
    = if x.path.phase = .readWait ∨ x.path.phase = .lineWait then { x with stop := some .fatal } else x.haltedFrom := by
  unfold Engine.underFatal
  split
  case h_1 state => cases h.symm.trans state
  case h_2 state => cases h.symm.trans state
  case h_3 state => cases h.symm.trans state
  case h_4 => rfl

end

theorem State.setEngine_engine (s : State) (e : Fin 4) : s.setEngine e (s.engine e) = s := by
  simp [State.setEngine, State.engine]

section fatal

variable (s : State)

theorem State.fatalEngine_effect (e : Fin 4) : ∃ posted,
    s.fatalEngine e = ({ s with hp := { s.hp with posted := posted } }).setEngine e (s.engine e).underFatal := by
  unfold State.fatalEngine
  split
  case h_1 state =>
    rw [Engine.underFatal_of_idle state]
    exact ⟨s.hp.posted, (s.setEngine_engine e).symm⟩
  case h_2 state =>
    rw [Engine.underFatal_of_halted state]
    exact ⟨s.hp.posted, (s.setEngine_engine e).symm⟩
  case h_3 state =>
    rw [Engine.underFatal_of_bound state]
    exact ⟨s.hp.posted, rfl⟩
  case h_4 state =>
    rw [Engine.underFatal_of_running state]
    by_cases waits : (s.engine e).path.phase = .readWait ∨ (s.engine e).path.phase = .lineWait
    · rw [s.stopRunning_of_waits e _ waits, if_pos waits]
      exact ⟨s.hp.posted, rfl⟩
    · obtain ⟨noRead, noLine⟩ := not_or.1 waits
      obtain ⟨posted, -, stopped⟩ := s.stopRunning_of_not_waits e .fatal noRead noLine
      rw [stopped, if_neg waits]
      exact ⟨posted, rfl⟩

theorem State.engine_fatalEngine_self (e : Fin 4) : (s.fatalEngine e).engine e = (s.engine e).underFatal := by
  obtain ⟨posted, effect⟩ := s.fatalEngine_effect e
  rw [effect, State.engine_setEngine_self]

theorem State.engine_fatalEngine_of_ne {e f : Fin 4} (h : f ≠ e) : (s.fatalEngine e).engine f = s.engine f := by
  obtain ⟨posted, effect⟩ := s.fatalEngine_effect e
  rw [effect, State.engine_setEngine_of_ne _ _ h]
  rfl

/-- Every engine is told of FATAL (R93, R205). -/
def State.fatalEngines : State := (((s.fatalEngine 0).fatalEngine 1).fatalEngine 2).fatalEngine 3

theorem State.engine_fatalEngines (e : Fin 4) : s.fatalEngines.engine e = (s.engine e).underFatal := by
  unfold State.fatalEngines
  match e with
  | 0 =>
    rw [State.engine_fatalEngine_of_ne _ (by decide), State.engine_fatalEngine_of_ne _ (by decide),
      State.engine_fatalEngine_of_ne _ (by decide), State.engine_fatalEngine_self]
  | 1 =>
    rw [State.engine_fatalEngine_of_ne _ (by decide), State.engine_fatalEngine_of_ne _ (by decide),
      State.engine_fatalEngine_self, State.engine_fatalEngine_of_ne _ (by decide)]
  | 2 =>
    rw [State.engine_fatalEngine_of_ne _ (by decide), State.engine_fatalEngine_self,
      State.engine_fatalEngine_of_ne _ (by decide), State.engine_fatalEngine_of_ne _ (by decide)]
  | 3 =>
    rw [State.engine_fatalEngine_self, State.engine_fatalEngine_of_ne _ (by decide),
      State.engine_fatalEngine_of_ne _ (by decide), State.engine_fatalEngine_of_ne _ (by decide)]

/-- `t` is `s` but for the engines and the writes that wait for the link. -/
def EnginesOnly (s t : State) : Prop :=
  ∃ posted engines, t = { s with hp := { s.hp with posted := posted }, dsp := { s.dsp with engines := engines } }

theorem EnginesOnly.trans {s t u : State} : EnginesOnly s t → EnginesOnly t u → EnginesOnly s u := by
  rintro ⟨_, _, rfl⟩ ⟨posted, engines, rfl⟩
  exact ⟨posted, engines, rfl⟩

theorem State.enginesOnly_fatalEngine (e : Fin 4) : EnginesOnly s (s.fatalEngine e) := by
  obtain ⟨posted, effect⟩ := s.fatalEngine_effect e
  exact ⟨posted, _, effect⟩

theorem State.enginesOnly_fatalEngines : EnginesOnly s s.fatalEngines :=
  (((s.enginesOnly_fatalEngine 0).trans (State.enginesOnly_fatalEngine _ 1)).trans
    (State.enginesOnly_fatalEngine _ 2)).trans (State.enginesOnly_fatalEngine _ 3)

theorem State.engine_enterFatal (e : Fin 4) : s.enterFatal.engine e = (s.engine e).underFatal :=
  s.engine_fatalEngines e

/-- The entry to FATAL changes HP, the engines and the levels of the output lines, and nothing else (R205). -/
theorem State.enterFatal_effect : ∃ engines, s.enterFatal = { s with
    hp := { s.hp with condition := .fatal, fatalBit := true, posted := [] }
    dsp := { s.dsp with engines := engines }
    lnu := { s.lnu with outputs := s.lnu.outputs.map (fun x => { x with level := x.safe }) } } := by
  obtain ⟨posted, engines, effect⟩ := s.enginesOnly_fatalEngines
  unfold State.fatalEngines at effect
  unfold State.enterFatal
  rw [effect]
  exact ⟨engines, rfl⟩

end fatal

/-! ## The writes that a completion hands over (R177, R183) -/

theorem HostPort.mem_posted_takeCuWrite {h : HostPort} {w : CuWrite} {p : Posted} (mem : p ∈ (h.takeCuWrite w).posted) :
    p ∈ h.posted ∨ ∃ f, p = .cu w f := by
  unfold HostPort.takeCuWrite at mem
  split at mem
  · split at mem
    · exact .inl mem
    · rcases List.mem_append.1 mem with old | new
      · exact .inl old
      · exact .inr ⟨_, List.mem_singleton.1 new⟩
  · rcases List.mem_append.1 mem with old | new
    · exact .inl old
    · exact .inr ⟨_, List.mem_singleton.1 new⟩

theorem HostPort.mem_posted_takeAll {p : Posted} : ∀ {ws : List CuWrite} {h : HostPort}, p ∈ (h.takeAll ws).posted →
    p ∈ h.posted ∨ ∃ w ∈ ws, ∃ f, p = .cu w f
  | [], _, mem => .inl mem
  | w :: ws, h, mem => by
    rcases HostPort.mem_posted_takeAll (h := h.takeCuWrite w) mem with old | ⟨v, inRest, f, rfl⟩
    · rcases HostPort.mem_posted_takeCuWrite old with older | ⟨f, rfl⟩
      · exact .inl older
      · exact .inr ⟨w, .head _, f, rfl⟩
    · exact .inr ⟨v, .tail _ inRest, f, rfl⟩

theorem CqContext.ring_of_mem_notices {x : CqContext} {q : Fin 16} {w : CuWrite} (mem : w ∈ x.notices q) : w.ring = q := by
  unfold CqContext.notices at mem
  split at mem
  · rw [List.mem_singleton.1 mem]
    rfl
  · cases mem

/-- A completion concerns its own ring only, and the writes that it hands over are that ring's. -/
theorem State.postCompletion_own (s : State) (q : Fin 16) (c : Completion) :
    (∀ k, k ≠ q → (s.postCompletion q c).cq k = s.cq k)
    ∧ ∀ w f, Posted.cu w f ∈ (s.postCompletion q c).hp.posted → Posted.cu w f ∈ s.hp.posted ∨ w.ring = q := by
  unfold State.postCompletion
  split
  · exact ⟨fun _ _ => rfl, fun _ _ => .inl⟩
  split
  · exact ⟨fun _ _ => rfl, fun _ _ => .inl⟩
  · exact ⟨fun k hk => State.cq_setCq_of_ne s _ hk, fun _ _ => .inl⟩
  split
  · have wrote := wrote_writeEntry s q c
    refine ⟨fun k hk => wrote.cq_of_ne hk, fun w f mem => ?_⟩
    rw [wrote.handsOver.1] at mem
    rcases HostPort.mem_posted_takeAll mem with old | ⟨v, handed, g, same⟩
    · exact .inl old
    · cases same
      rcases List.mem_cons.1 handed with rfl | notice
      · exact .inr rfl
      · exact .inr (CqContext.ring_of_mem_notices notice)
  split
  · exact ⟨fun k hk => State.cq_setCq_of_ne s _ hk, fun _ _ => .inl⟩
  · exact ⟨fun k hk => State.cq_setCq_of_ne s _ hk, fun _ _ => .inl⟩

/-! ## A tenant ring becomes FAULTED (R190) -/

section failed

variable {s : State} {w : CuWrite} {refused : Bool} {rest : List Posted}

theorem exec_completionWriteFailed (posted : s.hp.posted = .cu w refused :: rest)
    (fails : refused = true ∨ s.hp.busMaster = false) :
    exec .completionWriteFailed s = .next (({ s with hp := { s.hp with posted := rest } }).cuWriteFails w) := by
  have condition : (refused || !s.hp.busMaster) = true := by
    rcases fails with h | h <;> simp [h]
  show execCompletionWriteFailed s = _
  rw [execCompletionWriteFailed, posted]
  dsimp only
  rw [condition]
  rfl

theorem State.cuWriteFails_admin (ready : s.hp.condition = .ready) (own : w.ring = 0) : s.cuWriteFails w = s.enterFatal := by
  rw [State.cuWriteFails, if_pos (State.isReady_iff.2 ready), if_pos own]

theorem State.cuWriteFails_tenant (ready : s.hp.condition = .ready) (tenant : w.ring ≠ 0)
    (active : (s.cq w.ring).state = .active) : s.cuWriteFails w = s.faultRing w := by
  rw [State.cuWriteFails, if_pos (State.isReady_iff.2 ready), if_neg tenant, if_pos active]

theorem State.cuWriteFails_not_ready (notReady : s.hp.condition ≠ .ready) : s.cuWriteFails w = s :=
  if_neg (mt State.isReady_iff.1 notReady)

/-- The state in which a tenant ring has become FAULTED, before the notice. -/
def State.ringFaulted (s : State) (w : CuWrite) : State :=
  let t := s.setCq w.ring ((s.cq w.ring).faultedBy (s.entriesLost w))
  { t with hp := { t.hp with posted := t.hp.posted.filter (fun p => !p.isOf w.ring) } }

theorem State.faultRing_eq : s.faultRing w = (s.ringFaulted w).postCompletion 0
    { kind := .notice, status := .cqFaulted, source := w.ring.val, aux16 := (s.cq w.ring).outbox.length
      aux32 := w.cause, time := s.tb.value
      value := BitVec.ofNat 64 ((s.cq w.ring).faultedBy (s.entriesLost w)).lost } := rfl

theorem State.cq_ringFaulted_self : (s.ringFaulted w).cq w.ring = (s.cq w.ring).faultedBy (s.entriesLost w) :=
  State.cq_setCq_self s _ _

theorem State.cq_ringFaulted_of_ne {k : Fin 16} (h : k ≠ w.ring) : (s.ringFaulted w).cq k = s.cq k :=
  State.cq_setCq_of_ne s _ h

theorem State.cq_faultRing (tenant : w.ring ≠ 0) :
    (s.faultRing w).cq w.ring = (s.cq w.ring).faultedBy (s.entriesLost w) := by
  rw [State.faultRing_eq, (State.postCompletion_own _ _ _).1 _ tenant, State.cq_ringFaulted_self]

theorem State.cq_faultRing_of_ne {k : Fin 16} (tenant : k ≠ 0) (other : k ≠ w.ring) : (s.faultRing w).cq k = s.cq k := by
  rw [State.faultRing_eq, (State.postCompletion_own _ _ _).1 _ tenant, State.cq_ringFaulted_of_ne other]

/-- No write of a ring that has become FAULTED waits any longer. -/
theorem State.ring_of_mem_posted_faultRing (tenant : w.ring ≠ 0) {v : CuWrite} {f : Bool}
    (mem : Posted.cu v f ∈ (s.faultRing w).hp.posted) : v.ring ≠ w.ring := by
  rw [State.faultRing_eq] at mem
  rcases (State.postCompletion_own _ _ _).2 v f mem with old | ring0
  · have kept := (List.mem_filter.1 old).2
    intro same
    rw [Posted.isOf, beq_iff_eq.2 same] at kept
    cases kept
  · rw [ring0]
    exact tenant.symm

variable (s w)

theorem frame_faultRing : (s.faultRing w).rqe = s.rqe ∧ (s.faultRing w).ast = s.ast ∧ (s.faultRing w).dsp = s.dsp
    ∧ (s.faultRing w).wtb = s.wtb ∧ (s.faultRing w).lnu = s.lnu ∧ (s.faultRing w).tb = s.tb := by
  have frame := frame_postNotice (s.ringFaulted w) .cqFaulted w.ring.val (s.cq w.ring).outbox.length w.cause
    (BitVec.ofNat 64 ((s.cq w.ring).faultedBy (s.entriesLost w)).lost)
  exact ⟨frame.rqe, frame.ast, frame.dsp, frame.wtb, frame.lnu, frame.tb⟩

variable {s w}

/-- A waiting write that stays when a write of this ring has failed. -/
def Posted.stays (q : Fin 16) : Posted → Bool
  | .cu v _ => v.ring != q
  | _ => true

theorem Posted.stays_eq (q : Fin 16) (p : Posted) : p.stays q = !p.isOf q := by
  cases p <;> rfl

/-- The CQ_FAULTED notice is written where ring 0 has room. -/
theorem State.handsOver_faultRing (tenant : w.ring ≠ 0) (alive : Lives s) (active : (s.cq 0).state = .active)
    (noneHeld : (s.cq 0).outbox = []) (room : 1 ≤ (s.cq 0).room) :
    HandsOver { s with hp := { s.hp with posted := s.hp.posted.filter (Posted.stays w.ring) } } (s.faultRing w)
      ((s.cq 0).entryWrite 0
        { kind := .notice, status := .cqFaulted, source := w.ring.val, aux16 := (s.cq w.ring).outbox.length
          aux32 := w.cause, time := s.tb.value
          value := BitVec.ofNat 64 ((s.faultRing w).cq w.ring).lost }
        :: (s.cq 0).afterWrite.notices 0) := by
  have ring : (s.ringFaulted w).cq 0 = s.cq 0 := State.cq_ringFaulted_of_ne tenant.symm
  rw [State.cq_faultRing tenant, State.faultRing_eq, State.postCompletion_of_room (s := s.ringFaulted w) _ alive
    (by rw [ring]; exact active) (by rw [ring]; exact noneHeld) (by rw [ring]; exact room), ← ring]
  have waiting : s.hp.posted.filter (Posted.stays w.ring) = (s.ringFaulted w).hp.posted :=
    List.filter_congr fun p _ => p.stays_eq w.ring
  rw [waiting]
  exact .of_hp (wrote_writeEntry (s.ringFaulted w) 0 _).handsOver.1

end failed

/-- Settles O53: FATAL engine by engine (`underFatal`), and the notice that follows a FAULTED ring. -/
theorem completionWritesFail : Obligations.CompletionWritesFail := by
  intro s w refused rest posted fails
  have run := exec_completionWriteFailed posted fails
  refine ⟨fun ready own => ?fatal, fun ready tenant active => ?faulted, fun teardown => ?teardown⟩
  case fatal =>
    rw [State.cuWriteFails_admin (by exact ready) own] at run
    have engine := State.engine_enterFatal { s with hp := { s.hp with posted := rest } }
    obtain ⟨engines, effect⟩ := State.enterFatal_effect { s with hp := { s.hp with posted := rest } }
    rw [effect] at engine run
    refine ⟨_, run, rfl, rfl, rfl, rfl, fun l => ?_, fun e idle => (engine e).trans (Engine.underFatal_of_idle idle),
      fun e bound => ?_, fun e running waits => (engine e).trans ?_, fun e running phase => ?_, rfl, rfl, rfl, rfl, rfl,
      rfl, rfl⟩
    · exact Vector.getElem_map ..
    · rw [engine, Engine.underFatal_of_bound (by exact bound)]
      exact ⟨rfl, rfl⟩
    · exact (Engine.underFatal_of_running (by exact running)).trans (if_pos waits)
    · rw [engine, Engine.underFatal_of_running (by exact running), if_neg]
      · exact ⟨rfl, rfl⟩
      · show ¬ ((s.engine e).path.phase = .readWait ∨ (s.engine e).path.phase = .lineWait)
        rcases phase with phase | phase | phase <;> rw [phase] <;> decide
  case faulted =>
    rw [State.cuWriteFails_tenant (by exact ready) tenant (by exact active)] at run
    have frame := frame_faultRing { s with hp := { s.hp with posted := rest } } w
    refine ⟨_, run, (State.cq_faultRing tenant).trans ?_, fun v f => State.ring_of_mem_posted_faultRing tenant,
      fun active noneHeld room => ?_, fun k hk other => State.cq_faultRing_of_ne hk other, frame⟩
    · cases w <;> rfl
    · have alive : Lives { s with hp := { s.hp with posted := rest } } := by
        show s.hp.condition ≠ .fatal ∧ s.hp.condition ≠ .teardown
        rw [ready]
        decide
      have handed := State.handsOver_faultRing (s := { s with hp := { s.hp with posted := rest } }) tenant
        alive active noneHeld room
      cases w <;> exact handed
  case teardown =>
    rw [run, State.cuWriteFails_not_ready]
    show s.hp.condition ≠ .ready
    rw [teardown]
    decide

end Sys2Proof.Machine

/-! CREATE, TUNE and DELETE COMPLETION RING (R192 to R194). -/

namespace Sys2Proof.Machine

open Sys2Proof

/-- The notification checks of R192. -/
theorem NotifyFields.ok_iff {f : NotifyFields} : f.ok = true ↔
    f.addr.toNat % 4 = 0 ∧ (f.addr = 0 → f.value = 0) ∧ 1 ≤ f.threshold ∧ f.threshold ≤ 64 := by
  simp only [NotifyFields.ok, Bool.and_eq_true, Bool.or_eq_true, beq_iff_eq, bne_iff_ne, decide_eq_true_iff, and_assoc,
    ne_eq, imp_iff_not_or]

/-- The notification checks of R192 on the bytes of the entry. -/
theorem notifyFieldsOf_ok_iff {e : Entry} : (notifyFieldsOf e).ok = true ↔ bytesOf e 24 8 % 4 = 0
    ∧ (bytesOf e 24 8 = 0 → bytesOf e 32 4 = 0) ∧ 1 ≤ bytesOf e 20 1 ∧ bytesOf e 20 1 ≤ 64 := by
  have addr : bytesOf e 24 8 = 0 ↔ e.extractLsb' 192 64 = 0 := toNat_extractLsb'_eq_zero_iff e _ _
  have value : bytesOf e 32 4 = 0 ↔ e.extractLsb' 256 32 = 0 := toNat_extractLsb'_eq_zero_iff e _ _
  rw [addr, value]
  exact NotifyFields.ok_iff

/-! ## CREATE (R192) -/

section create

variable {s : State} {c : Fin 8} {e : Entry} {q : Fin 16}

theorem exec_createCq_noNumber (h : AdminWaits s c .createCq e) (number : finOf 16 (bytesOf e 1 1) = none) :
    exec (.createCompletionRing c) s = .next (s.completeRequest c 0 { status := .noRing, time := s.tb.value }) := by
  show execCreateCompletionRing c s = _
  rw [execCreateCompletionRing, h.requestOf]
  dsimp only
  rw [number]
  rfl

theorem exec_createCq_refused {st : Status} (h : AdminWaits s c .createCq e) (number : finOf 16 (bytesOf e 1 1) = some q)
    (refused : s.newCq q e = .error st) : exec (.createCompletionRing c) s = .next (s.completeRequest c 0
      { status := st, time := s.tb.value, aux32 := (s.cq q).state.code }) := by
  show execCreateCompletionRing c s = _
  rw [execCreateCompletionRing, h.requestOf]
  dsimp only
  rw [number]
  dsimp only
  rw [refused]
  rfl

theorem exec_createCq {x : CqContext} (h : AdminWaits s c .createCq e) (number : finOf 16 (bytesOf e 1 1) = some q)
    (made : s.newCq q e = .ok x) : exec (.createCompletionRing c) s = .next ((s.setCq q x).completeRequest c 0
      { status := .ok, time := s.tb.value, aux32 := (s.cq q).state.code, value := BitVec.ofNat 64 x.size }) := by
  show execCreateCompletionRing c s = _
  rw [execCreateCompletionRing, h.requestOf]
  dsimp only
  rw [number]
  dsimp only
  rw [made]
  rfl

theorem State.newCq_zero : s.newCq 0 e = .error .noRing := by
  rw [State.newCq, if_pos rfl]

theorem State.newCq_of_exists (tenant : q ≠ 0) (here : (s.cq q).state ≠ .absent) : s.newCq q e = .error .alreadyExists := by
  rw [State.newCq, if_neg tenant, if_pos here]

/-- The last check of R192 and the context of a new ring. -/
theorem State.newCq_of_absent (tenant : q ≠ 0) (absent : (s.cq q).state = .absent) : s.newCq q e =
    if baseOk (e.extractLsb' 64 64) = true ∧ ringSizeOk (bytesOf e 16 2) = true ∧ (notifyFieldsOf e).ok = true then
      .ok (CqContext.created (e.extractLsb' 64 64) (bytesOf e 16 2) (notifyFieldsOf e))
    else .error .badField := by
  rw [State.newCq, if_neg tenant, if_neg (not_not.2 absent)]

end create

/-! ## TUNE (R193) -/

section tune

variable {s : State} {c : Fin 8} {e : Entry} {q : Fin 16}

theorem exec_tuneCq_noNumber (h : AdminWaits s c .tuneCq e) (number : finOf 16 (bytesOf e 1 1) = none) :
    exec (.tuneCompletionRing c) s = .next (s.completeRequest c 0 { status := .noRing, time := s.tb.value }) := by
  show execTuneCompletionRing c s = _
  rw [execTuneCompletionRing, h.requestOf]
  dsimp only
  rw [number]
  rfl

theorem exec_tuneCq_absent (h : AdminWaits s c .tuneCq e) (number : finOf 16 (bytesOf e 1 1) = some q)
    (absent : (s.cq q).state = .absent) :
    exec (.tuneCompletionRing c) s = .next (s.completeRequest c 0 { status := .noRing, time := s.tb.value }) := by
  show execTuneCompletionRing c s = _
  rw [execTuneCompletionRing, h.requestOf]
  dsimp only
  rw [number]
  dsimp only
  rw [absent]
  rfl

theorem exec_tuneCq_faulted (h : AdminWaits s c .tuneCq e) (number : finOf 16 (bytesOf e 1 1) = some q)
    (faulted : (s.cq q).state = .faulted) : exec (.tuneCompletionRing c) s = .next (s.completeRequest c 0
      { status := .wrongState, time := s.tb.value, aux32 := 2, value := (s.cq q).tuneValue }) := by
  show execTuneCompletionRing c s = _
  rw [execTuneCompletionRing, h.requestOf]
  dsimp only
  rw [number]
  dsimp only
  rw [faulted]
  rfl

/-- TUNE of an ACTIVE ring by the verdict on its fields (R193). -/
theorem exec_tuneCq_active (h : AdminWaits s c .tuneCq e) (number : finOf 16 (bytesOf e 1 1) = some q)
    (active : (s.cq q).state = .active) : exec (.tuneCompletionRing c) s = .next (
      if (notifyFieldsOf e).ok = true then
        ((s.setCq q ((s.cq q).tuned (notifyFieldsOf e))).completeRequest c 0
          { status := .ok, time := s.tb.value, aux32 := 1, value := ((s.cq q).tuned (notifyFieldsOf e)).tuneValue }).notifyIfDue q
      else s.completeRequest c 0
        { status := .badField, time := s.tb.value, aux32 := 1, value := (s.cq q).tuneValue }) := by
  show execTuneCompletionRing c s = _
  rw [execTuneCompletionRing, h.requestOf]
  dsimp only
  rw [number]
  dsimp only
  rw [active]
  rfl

end tune

/-! ## DELETE (R194) -/

section delete

variable {s : State} {c : Fin 8} {e : Entry} {q : Fin 16}

theorem exec_deleteCq_refused {st : Status} (h : AdminWaits s c .deleteCq e)
    (refused : s.deleteCqRefusal (bytesOf e 1 1) = some st) : exec (.deleteCompletionRing c) s = .next (s.completeRequest c 0
      { status := st, time := s.tb.value, aux32 := s.cqCode (finOf 16 (bytesOf e 1 1)) }) := by
  show execDeleteCompletionRing c s = _
  rw [execDeleteCompletionRing, h.requestOf]
  dsimp only
  rw [refused]
  rfl

theorem exec_deleteCq (h : AdminWaits s c .deleteCq e) (accepted : s.deleteCqRefusal (bytesOf e 1 1) = none)
    (number : finOf 16 (bytesOf e 1 1) = some q) : exec (.deleteCompletionRing c) s = .next
      ((s.setCq q CqContext.absent).completeRequest c 0
        { status := .ok, time := s.tb.value, aux32 := (s.cq q).state.code
          value := packValue (s.cq q).outbox.length 16 (s.cq q).lost }) := by
  show execDeleteCompletionRing c s = _
  rw [execDeleteCompletionRing, h.requestOf]
  dsimp only
  rw [accepted, number]
  rfl

theorem State.deleteCqRefusal_of_number (tenant : q ≠ 0) (number : bytesOf e 1 1 = q.val) :
    s.deleteCqRefusal (bytesOf e 1 1) = if (s.cq q).state = .absent then some .noRing
      else if s.cqInUse q = true then some .inUse else none := by
  have notZero : bytesOf e 1 1 ≠ 0 := fun zero => tenant (Fin.ext (number.symm.trans zero))
  rw [State.deleteCqRefusal, if_neg notZero, finOf_eq_some_iff.2 number]

/-- A completion ring is in use where a submission ring that exists is bound to it, or an input line reports to it (R194). -/
theorem State.cqInUse_iff : s.cqInUse q = true ↔
    (∃ n, (s.sq n).state ≠ .absent ∧ (s.sq n).cq = q) ∨ ∃ l, (s.input l).reportRing = some q := by
  rw [State.cqInUse, Bool.or_eq_true, List.any_eq_true, List.any_eq_true]
  constructor
  · rintro (⟨x, mem, used⟩ | ⟨x, mem, used⟩)
    · obtain ⟨n, hn, rfl⟩ := Vector.mem_iff_getElem.1 (Vector.mem_toList_iff.1 mem)
      rw [Bool.and_eq_true, bne_iff_ne, beq_iff_eq] at used
      exact .inl ⟨⟨n, hn⟩, used⟩
    · obtain ⟨l, hl, rfl⟩ := Vector.mem_iff_getElem.1 (Vector.mem_toList_iff.1 mem)
      exact .inr ⟨⟨l, hl⟩, beq_iff_eq.1 used⟩
  · rintro (⟨n, exist, bound⟩ | ⟨l, reports⟩)
    · refine .inl ⟨s.sq n, Vector.mem_toList_iff.2 (Vector.getElem_mem _), ?_⟩
      rw [Bool.and_eq_true, bne_iff_ne, beq_iff_eq]
      exact ⟨exist, bound⟩
    · exact .inr ⟨s.input l, Vector.mem_toList_iff.2 (Vector.getElem_mem _), beq_iff_eq.2 reports⟩

end delete

/-- Settles O54: the checks of each command in their order. -/
theorem completionRingCommands : Obligations.CompletionRingCommands := by
  refine ⟨fun s c e waits => ?create, fun s c e waits => ?tune, fun e => notifyFieldsOf_ok_iff, fun s c e waits => ?delete⟩
  case create =>
    obtain ⟨t, run, -⟩ := commandsKeepTheQueue (.createCompletionRing c) s
    have answered (x : Result) := waits.answered s x rfl rfl
    refine ⟨t, run, fun high => ?_, fun zero => ?_, fun q tenant number => ⟨fun here => ?_, ?_⟩⟩
    · exact next_unique run (exec_createCq_noNumber waits (finOf_eq_none_iff.2 high)) ▸ answered _
    · have same := next_unique run (exec_createCq_refused waits (q := 0) (finOf_eq_some_iff.2 zero) State.newCq_zero)
      have active : (s.cq 0).state = .active := waits.2.2.2.2.2
      rw [active] at same
      exact same ▸ answered _
    · exact next_unique run (exec_createCq_refused waits (finOf_eq_some_iff.2 number) (State.newCq_of_exists tenant here))
        ▸ answered _
    · rintro base naddr size absent rfl rfl rfl
      have made := State.newCq_of_absent (e := e) tenant absent
      refine ⟨fun bad => ?_, fun aligned size low silent least most => ?_⟩
      · rw [if_neg] at made
        · have same := next_unique run (exec_createCq_refused waits (finOf_eq_some_iff.2 number) made)
          rw [absent] at same
          exact same ▸ answered _
        · rintro ⟨aligned, size, fields⟩
          obtain ⟨k, lowest, highest, power⟩ := (ringSizeOk_iff _).1 size
          obtain ⟨low, silent, least, most⟩ := NotifyFields.ok_iff.1 fields
          rcases bad with off | noPower | odd | ⟨none, loud⟩ | zero | above
          · exact off (baseOk_iff.1 aligned)
          · exact noPower k lowest highest power
          · exact odd low
          · exact loud (silent none)
          · exact absurd zero (Nat.ne_of_gt least)
          · exact absurd most (Nat.not_le.2 above)
      · rw [if_pos ⟨baseOk_iff.2 aligned, (ringSizeOk_iff _).2 size, NotifyFields.ok_iff.2 ⟨low, silent, least, most⟩⟩] at made
        have same := next_unique run (exec_createCq waits (finOf_eq_some_iff.2 number) made)
        rw [absent] at same
        exact same ▸ waits.answered _ _ rfl (congrArg _ (State.cq_setCq_of_ne s _ tenant.symm))
  case tune =>
    obtain ⟨t, run, -⟩ := commandsKeepTheQueue (.tuneCompletionRing c) s
    have answered (x : Result) := waits.answered s x rfl rfl
    refine ⟨t, run, fun high => ?_, fun q number => ⟨fun absent => ?_, fun faulted => ?_, fun active bad => ?_,
      fun active good => ?_⟩⟩
    · exact next_unique run (exec_tuneCq_noNumber waits (finOf_eq_none_iff.2 high)) ▸ answered _
    · exact next_unique run (exec_tuneCq_absent waits (finOf_eq_some_iff.2 number) absent) ▸ answered _
    · exact next_unique run (exec_tuneCq_faulted waits (finOf_eq_some_iff.2 number) faulted) ▸ answered _
    · have same := next_unique run (exec_tuneCq_active waits (finOf_eq_some_iff.2 number) active)
      rw [if_neg (Bool.eq_false_iff.1 bad)] at same
      exact same ▸ answered _
    · have same := next_unique run (exec_tuneCq_active waits (finOf_eq_some_iff.2 number) active)
      rw [if_pos good] at same
      refine ⟨_, same.symm, same ▸ .of_hp (State.hp_notifyIfDue _ q), same ▸ State.cu_notifyIfDue _ q, waits.answered _ _ rfl ?_⟩
      by_cases own : 0 = q
      · subst own
        rw [State.cq_setCq_self]
      · rw [State.cq_setCq_of_ne _ _ own]
  case delete =>
    obtain ⟨t, run, -⟩ := commandsKeepTheQueue (.deleteCompletionRing c) s
    have answered (x : Result) := waits.answered s x rfl rfl
    refine ⟨t, run, fun zero => ?_, fun high => ?_, fun q tenant number => ?_⟩
    · have same := next_unique run (exec_deleteCq_refused waits (st := .notPermitted) (if_pos zero))
      have active : (s.cq 0).state = .active := waits.2.2.2.2.2
      rw [finOf_eq_some_iff (i := 0) |>.2 zero, State.cqCode, active] at same
      exact same ▸ answered _
    · have refused : s.deleteCqRefusal (bytesOf e 1 1) = some .noRing := by
        rw [State.deleteCqRefusal, if_neg (by omega), finOf_eq_none_iff.2 high]
      have same := next_unique run (exec_deleteCq_refused waits refused)
      rw [finOf_eq_none_iff.2 high] at same
      exact same ▸ answered _
    have verdict := State.deleteCqRefusal_of_number (s := s) tenant number
    have ring := finOf_eq_some_iff.2 number
    refine ⟨fun absent => ?_, fun here used => ?_, fun here unbound unreported => ?_⟩
    · rw [if_pos absent] at verdict
      have same := next_unique run (exec_deleteCq_refused waits verdict)
      rw [ring, State.cqCode, absent] at same
      exact same ▸ answered _
    · rw [if_neg here, if_pos (State.cqInUse_iff.2 used)] at verdict
      have same := next_unique run (exec_deleteCq_refused waits verdict)
      rw [ring] at same
      exact same ▸ answered _
    · rw [if_neg here, if_neg (mt State.cqInUse_iff.1 _)] at verdict
      · exact next_unique run (exec_deleteCq waits verdict ring)
          ▸ waits.answered _ _ rfl (congrArg _ (State.cq_setCq_of_ne s _ tenant.symm))
      · rintro (⟨n, exist, bound⟩ | ⟨l, reports⟩)
        · exact unbound n exist bound
        · exact unreported l reports

end Sys2Proof.Machine

/-! ENABLE, TEARDOWN and TEARDOWN_END (R201 to R204). -/

namespace Sys2Proof.Machine

open Sys2Proof

/-! ## The enable (R201, R202) -/

theorem adminValid_iff {d : Word64} : adminValid d = true ↔
    (∃ k, 3 ≤ k ∧ k ≤ 12 ∧ (d.extractLsb' 0 4).toNat = k) ∧ d.extractLsb' 4 8 = 0 := by
  rw [adminValid, Bool.and_eq_true, decide_eq_true_iff, beq_iff_eq]
  refine and_congr ⟨fun ⟨low, high⟩ => ⟨_, low, high, rfl⟩, ?_⟩ Iff.rfl
  rintro ⟨k, low, high, rfl⟩
  exact ⟨low, high⟩

section enable

variable {s : State}

theorem State.doEnable_of_valid (sq : adminValid s.hp.adminSq = true) (cq : adminValid s.hp.adminCq = true) :
    s.doEnable = { (s.setSq 0 (ring0Sq s.hp.adminSq)).setCq 0 (ring0Cq s.hp.adminCq) with
      hp := { s.hp with condition := .ready, latched := some (s.hp.adminSq, s.hp.adminCq) } } := by
  rw [State.doEnable, sq, cq]
  rfl

theorem State.doEnable_of_invalid (bad : adminValid s.hp.adminSq = false ∨ adminValid s.hp.adminCq = false) :
    s.doEnable = { s with hp := { s.hp with condition := .off, configError := true } } := by
  rw [State.doEnable, if_neg]
  rw [Bool.and_eq_true]
  rintro ⟨sq, cq⟩
  rcases bad with h | h
  · rw [h] at sq
    cases sq
  · rw [h] at cq
    cases cq

/-- CONTROL.ENABLE takes its own value. -/
theorem State.enable_self {b : Bool} (same : s.hp.enable = b) : { s with hp := { s.hp with enable := b } } = s := by
  subst same
  rfl

theorem exec_enable_off (off : s.hp.condition = .off) (disabled : s.hp.enable = false) :
    exec .enable s = .next ({ s with hp := { s.hp with enable := true } } : State).doEnable := by
  show Host.Outcome.next (s.writeEnable true) = _
  rw [State.writeEnable, off, disabled]
  rfl

theorem exec_enable_enabled (notTeardown : s.hp.condition ≠ .teardown) (enabled : s.hp.enable = true) :
    exec .enable s = .next s := by
  show Host.Outcome.next (s.writeEnable true) = _
  have same := State.enable_self enabled
  rw [State.writeEnable, enabled, same]
  cases condition : s.hp.condition with
  | teardown => exact absurd condition notTeardown
  | off => rfl
  | ready => rfl
  | fatal => rfl

theorem exec_enable_teardown (teardown : s.hp.condition = .teardown) :
    exec .enable s = .next { s with hp := { s.hp with enable := true } } := by
  show Host.Outcome.next (s.writeEnable true) = _
  rw [State.writeEnable, teardown]

end enable

/-- Settles O56: ENABLE, by the condition of the part. -/
theorem enableBuildsTheRings : Obligations.EnableBuildsTheRings := by
  refine fun s => ⟨fun off disabled sq cq => ?_, fun off disabled bad => ?_, exec_enable_enabled, exec_enable_teardown,
    fun d => adminValid_iff⟩
  · rw [exec_enable_off off disabled, State.doEnable_of_valid (by exact sq) (by exact cq)]
    rfl
  · rw [exec_enable_off off disabled, State.doEnable_of_invalid (by exact bad), ← off]

/-! ## The teardown of the engines (R94, R112, R113) -/

/-- What teardown leaves of an engine (R94). -/
def Engine.underTeardown (x : Engine) : Engine :=
  match x.state with
  | .idle => x
  | .bound | .halted => Engine.released
  | .running =>
    if x.path.phase = .readWait ∨ x.path.phase = .lineWait then { x with stop := some .teardown } else Engine.released

section

variable {x : Engine}

theorem Engine.underTeardown_of_idle (h : x.state = .idle) : x.underTeardown = x := by rw [Engine.underTeardown, h]

theorem Engine.underTeardown_of_bound (h : x.state = .bound) : x.underTeardown = Engine.released := by
  rw [Engine.underTeardown, h]

theorem Engine.underTeardown_of_halted (h : x.state = .halted) : x.underTeardown = Engine.released := by
  rw [Engine.underTeardown, h]

theorem Engine.underTeardown_of_running (h : x.state = .running) : x.underTeardown
    = if x.path.phase = .readWait ∨ x.path.phase = .lineWait then { x with stop := some .teardown } else Engine.released := by
  unfold Engine.underTeardown
  split
  case h_1 state => cases h.symm.trans state
  case h_2 state => cases h.symm.trans state
  case h_3 state => cases h.symm.trans state
  case h_4 => rfl

/-- After teardown an engine is IDLE, or it waits for its answer with the stop noted. -/
theorem Engine.underTeardown_cases (x : Engine) : x.underTeardown.state = .idle
    ∨ (x.underTeardown.state = .running ∧ x.underTeardown.stop = some .teardown
      ∧ (x.underTeardown.path.phase = .readWait ∨ x.underTeardown.path.phase = .lineWait)) := by
  cases h : x.state with
  | idle =>
    rw [Engine.underTeardown_of_idle h]
    exact .inl h
  | bound =>
    rw [Engine.underTeardown_of_bound h]
    exact .inl rfl
  | halted =>
    rw [Engine.underTeardown_of_halted h]
    exact .inl rfl
  | running =>
    rw [Engine.underTeardown_of_running h]
    split
    case isTrue waits => exact .inr ⟨h, rfl, waits⟩
    case isFalse => exact .inl rfl

end

/-- Teardown leaves this slot alone when it reaches this engine: the engine is IDLE, or waits on, or holds another slot. -/
def Engine.Spares (x : Engine) (id : Nat) : Prop :=
  x.state = .idle ∨ (x.state = .running ∧ (x.path.phase = .readWait ∨ x.path.phase = .lineWait)) ∨ x.slot ≠ id

/-- `t` is `s` but for the engines, the occupied slots with their places, and writes that wait for the link other than CU's. -/
def TearsDown (s t : State) : Prop :=
  ∃ posted slots schedule engines calendar listen, posted.filter Posted.isCu = s.hp.posted.filter Posted.isCu
    ∧ t = { s with
        hp := { s.hp with posted := posted }
        ast := { s.ast with slots := slots }
        dsp := { s.dsp with schedule := schedule, engines := engines }
        lnu := { s.lnu with calendar := calendar, listen := listen } }

theorem TearsDown.refl (s : State) : TearsDown s s := ⟨_, _, _, _, _, _, rfl, rfl⟩

theorem TearsDown.trans {s t u : State} : TearsDown s t → TearsDown t u → TearsDown s u := by
  rintro ⟨_, _, _, _, _, _, kept, rfl⟩ ⟨posted, slots, schedule, engines, calendar, listen, kept', rfl⟩
  exact ⟨posted, slots, schedule, engines, calendar, listen, kept'.trans kept, rfl⟩

/-- What the teardown of one engine does. -/
structure EngineTornDown (s t : State) (e : Fin 4) : Prop where
  rest : TearsDown s t
  engine : t.engine e = (s.engine e).underTeardown
  others : ∀ f, f ≠ e → t.engine f = s.engine f
  slots : ∀ id, (s.engine e).Spares id → t.slot? id = s.slot? id

section engines

variable {s : State} {e : Fin 4}

theorem engineTornDown_released (posted : List Posted) (kept : posted.filter Posted.isCu = s.hp.posted.filter Posted.isCu)
    (released : (s.engine e).underTeardown = Engine.released) (busy : (s.engine e).state ≠ .idle)
    (ends : ¬ ((s.engine e).state = .running
      ∧ ((s.engine e).path.phase = .readWait ∨ (s.engine e).path.phase = .lineWait))) :
    EngineTornDown s (({ s with hp := { s.hp with posted := posted } } : State).afterStop e .teardown) e where
  rest := ⟨posted, _, _, _, _, _, kept, rfl⟩
  engine := (State.engine_setEngine_self _ e _).trans released.symm
  others := fun _ h => State.engine_setEngine_of_ne _ _ h
  slots := fun id spares => by
    have other : (s.engine e).slot ≠ id := by
      rcases spares with idle | waits | other
      · exact absurd idle busy
      · exact absurd waits ends
      · exact other
    exact (State.slot?_freeSlot _ _ id).trans (if_neg other.symm)

theorem engineTornDown (s : State) (e : Fin 4) : EngineTornDown s (s.teardownEngine e) e := by
  unfold State.teardownEngine
  split
  case h_1 state => exact ⟨.refl s, (Engine.underTeardown_of_idle state).symm, fun _ _ => rfl, fun _ _ => rfl⟩
  case h_2 state =>
    exact engineTornDown_released s.hp.posted rfl (Engine.underTeardown_of_halted state) (by rw [state]; decide)
      (by rw [state]; exact fun h => nomatch h.1)
  case h_3 state =>
    exact engineTornDown_released s.hp.posted rfl (Engine.underTeardown_of_bound state) (by rw [state]; decide)
      (by rw [state]; exact fun h => nomatch h.1)
  case h_4 state =>
    have torn := Engine.underTeardown_of_running state
    by_cases waits : (s.engine e).path.phase = .readWait ∨ (s.engine e).path.phase = .lineWait
    · rw [if_pos waits] at torn
      rw [s.stopRunning_of_waits e _ waits]
      exact ⟨⟨_, _, _, _, _, _, rfl, rfl⟩, (State.engine_setEngine_self s e _).trans torn.symm,
        fun _ h => State.engine_setEngine_of_ne s _ h, fun _ _ => rfl⟩
    · rw [if_neg waits] at torn
      obtain ⟨noRead, noLine⟩ := not_or.1 waits
      obtain ⟨posted, kept, stopped⟩ := s.stopRunning_of_not_waits e .teardown noRead noLine
      rw [stopped]
      exact engineTornDown_released posted kept torn (by rw [state]; decide) (fun h => waits h.2)

/-- What the teardown of all engines does. -/
theorem tearsDown_teardownEngines (s : State) : TearsDown s s.teardownEngines
    ∧ (∀ e, s.teardownEngines.engine e = (s.engine e).underTeardown)
    ∧ ∀ id, (∀ e, (s.engine e).Spares id) → s.teardownEngines.slot? id = s.slot? id := by
  have first := engineTornDown s 0
  have second := engineTornDown (s.teardownEngine 0) 1
  have third := engineTornDown ((s.teardownEngine 0).teardownEngine 1) 2
  have fourth := engineTornDown (((s.teardownEngine 0).teardownEngine 1).teardownEngine 2) 3
  have one : (s.teardownEngine 0).engine 1 = s.engine 1 := first.others 1 (by decide)
  have two : ((s.teardownEngine 0).teardownEngine 1).engine 2 = s.engine 2 :=
    (second.others 2 (by decide)).trans (first.others 2 (by decide))
  have three : (((s.teardownEngine 0).teardownEngine 1).teardownEngine 2).engine 3 = s.engine 3 :=
    ((third.others 3 (by decide)).trans (second.others 3 (by decide))).trans (first.others 3 (by decide))
  refine ⟨((first.rest.trans second.rest).trans third.rest).trans fourth.rest, fun e => ?_, fun id spares => ?_⟩
  · unfold State.teardownEngines
    match e with
    | 0 => rw [fourth.others 0 (by decide), third.others 0 (by decide), second.others 0 (by decide), first.engine]
    | 1 => rw [fourth.others 1 (by decide), third.others 1 (by decide), second.engine, one]
    | 2 => rw [fourth.others 2 (by decide), third.engine, two]
    | 3 => rw [fourth.engine, three]
  · unfold State.teardownEngines
    rw [fourth.slots id (three ▸ spares 3), third.slots id (two ▸ spares 2), second.slots id (one ▸ spares 1),
      first.slots id (spares 0)]

end engines

/-! ## TEARDOWN (R201, R203) -/

section teardown

variable {s : State}

/-- Under the placement law no two engines hold one slot; so teardown spares the slot of an engine that waits on. -/
theorem spares_of_waits (store : StoreLaw s) (place : PlacementLaw s) {e : Fin 4} (running : (s.engine e).state = .running)
    (waits : (s.engine e).path.phase = .readWait ∨ (s.engine e).path.phase = .lineWait) (f : Fin 4) :
    (s.engine f).Spares (s.engine e).slot := by
  obtain ⟨x, -, seat, -, -⟩ :=
    Board.Placed.seat_of_engine ((placementLaw_iff store.1).1 place) (e := e) rfl (by rw [running]; decide)
  by_cases idle : (s.engine f).state = .idle
  · exact .inl idle
  by_cases other : (s.engine f).slot = (s.engine e).slot
  · obtain rfl : e = f := Option.some.inj ((seat.engine f).1 ⟨idle, other⟩)
    exact .inr (.inl ⟨running, waits⟩)
  · exact .inr (.inr other)

/-- A filter that looks at the slot number alone keeps what it says of a number that it keeps. -/
theorem slotGet_filter_of_key (keep : Nat → Bool) {id : Nat} (kept : keep id = true) (l : List (Nat × Slot)) :
    slotGet (l.filter (fun p => keep p.1)) id = slotGet l id := by
  induction l with
  | nil => rfl
  | cons p rest ih =>
    obtain ⟨k, x⟩ := p
    by_cases same : k = id
    · subst same
      rw [List.filter_cons_of_pos (by exact kept)]
      exact (if_pos rfl).trans (if_pos rfl).symm
    · have skip : slotGet ((k, x) :: rest) id = slotGet rest id := if_neg same
      rw [skip, List.filter_cons]
      split
      · exact (if_neg same).trans ih
      · exact ih

theorem State.heldByEngine_iff {id : Nat} :
    s.heldByEngine id = true ↔ ∃ e, (s.engine e).state = .running ∧ (s.engine e).slot = id :=
  Board.heldRunning_iff s.board id

/-- What the beginning of teardown leaves alone, and what it empties (R203). -/
theorem State.beginTeardown_effect (s : State) : ∃ (slots : List (Nat × Slot)) (engines : Vector Engine 4)
    (stale : List ReadSource), (∀ e : Fin 4, engines[e] = (s.engine e).underTeardown)
    ∧ (∀ e : Fin 4, engines[e].state = .running → (∀ f, (s.engine f).Spares engines[e].slot) →
        slotGet slots engines[e].slot = s.slot? engines[e].slot)
    ∧ (∀ id, slotGet slots id ≠ none → ∃ e : Fin 4, engines[e].state = .running ∧ engines[e].slot = id)
    ∧ s.beginTeardown = { s with
        hp := { s.hp with condition := .teardown, posted := s.hp.posted.filter Posted.isCu, stale := stale }
        rqe := RequestEngine.reset
        ast := { s.ast with slots := slots }
        dsp := { s.dsp with schedule := [], engines := engines, hold := false, steps := [] }
        lnu := { s.lnu with
          inputs := s.lnu.inputs.map
            (fun x => { x with report := none, reportRing := none, lastEdge := none, suppressed := 0 })
          calendar := []
          listen := Vector.replicate 4 []
          outputs := s.lnu.outputs.map (fun x => { x with level := x.safe })
          steps := [] }
        cu := Vector.replicate 16 CqContext.absent } := by
  obtain ⟨⟨posted, slots, schedule, engines, calendar, listen, kept, torn⟩, engine, spared⟩ := tearsDown_teardownEngines s
  have effect : s.beginTeardown = { s with
        hp := { s.hp with
          condition := .teardown, posted := posted.filter Posted.isCu
          stale := s.hp.stale ++ s.teardownEngines.linesSafe.abandonedReads }
        rqe := RequestEngine.reset
        ast := { s.ast with slots := slots.filter (fun p => s.teardownEngines.heldByEngine p.1) }
        dsp := { s.dsp with schedule := [], engines := engines, hold := false, steps := [] }
        lnu := { s.lnu with
          inputs := s.lnu.inputs.map
            (fun x => { x with report := none, reportRing := none, lastEdge := none, suppressed := 0 })
          calendar := []
          listen := Vector.replicate 4 []
          outputs := s.lnu.outputs.map (fun x => { x with level := x.safe })
          steps := [] }
        cu := Vector.replicate 16 CqContext.absent } := by
    unfold State.beginTeardown
    rw [torn]
    rfl
  have held (id : Nat) : s.teardownEngines.heldByEngine id = true ↔
      ∃ e : Fin 4, engines[e].state = .running ∧ engines[e].slot = id := by
    rw [State.heldByEngine_iff, torn]
    rfl
  have slot (id : Nat) : s.teardownEngines.slot? id = slotGet slots id := by rw [torn]; rfl
  refine ⟨_, engines, _, fun e => ?_, fun e running spares => ?_, fun id occupied => ?_, kept ▸ effect⟩
  · rw [← engine, torn]
    rfl
  · rw [slotGet_filter_of_key _ ((held _).2 ⟨e, running, rfl⟩), ← slot, spared _ spares]
  · obtain ⟨x, found⟩ := Option.ne_none_iff_exists'.1 occupied
    exact (held id).1 (List.mem_filter.1 (slotGet_mem found)).2

theorem exec_teardown_off (off : s.hp.condition = .off) (disabled : s.hp.enable = false) : exec .teardown s = .next s := by
  show Host.Outcome.next (s.writeEnable false) = _
  have same := State.enable_self disabled
  rw [State.writeEnable, disabled, same, off]
  rfl

theorem exec_teardown_teardown (teardown : s.hp.condition = .teardown) :
    exec .teardown s = .next { s with hp := { s.hp with enable := false } } := by
  show Host.Outcome.next (s.writeEnable false) = _
  rw [State.writeEnable, teardown]

theorem exec_teardown (opened : s.hp.condition = .ready ∨ s.hp.condition = .fatal
    ∨ (s.hp.condition = .off ∧ s.hp.enable = true)) :
    exec .teardown s = .next ({ s with hp := { s.hp with enable := false } } : State).beginTeardown := by
  show Host.Outcome.next (s.writeEnable false) = _
  rcases opened with ready | fatal | ⟨off, enabled⟩
  · rw [State.writeEnable, ready]
    rfl
  · rw [State.writeEnable, fatal]
    rfl
  · rw [State.writeEnable, off, enabled]
    rfl

end teardown

/-! ## TEARDOWN_END (R204) -/

section teardownEnd

variable {s : State}

theorem State.teardownDone_iff : s.teardownDone = true ↔
    (∀ e, (s.engine e).state = .idle ∧ (s.engine e).path.phase = .idle) ∧ ∀ w f, Posted.cu w f ∉ s.hp.posted := by
  rw [State.teardownDone, Bool.and_eq_true, Bool.not_eq_true', List.any_eq_false, all_toList_iff]
  refine and_congr ⟨fun idle e => ?_, fun idle i hi => ?_⟩ ⟨fun none w f mem => none _ mem rfl, fun none p mem => ?_⟩
  · have both := idle e.val e.isLt
    rw [Bool.and_eq_true, beq_iff_eq, beq_iff_eq] at both
    exact both
  · rw [Bool.and_eq_true, beq_iff_eq, beq_iff_eq]
    exact idle ⟨i, hi⟩
  · cases p with
    | cu w f => exact absurd mem (none w f)
    | op e => exact Bool.false_ne_true
    | identity c a refused => exact Bool.false_ne_true

theorem exec_teardownEnd_done (teardown : s.hp.condition = .teardown) (done : s.teardownDone = true) :
    exec .teardownEnd s = .next s.endTeardown := by
  show execTeardownEnd s = _
  rw [execTeardownEnd, if_pos ⟨teardown, done⟩]

theorem exec_teardownEnd_not_done (busy : ¬ s.teardownDone = true) : exec .teardownEnd s = .next s := by
  show execTeardownEnd s = _
  rw [execTeardownEnd, if_neg (fun h => busy h.2)]

/-- The state in which teardown has ended, before an enable that is asked for. -/
def State.tornDown (s : State) : State :=
  { s with
    hp := { s.hp with condition := .off, fatalBit := false, configError := false, latched := none }
    lnu := { s.lnu with inputs := s.lnu.inputs.map InputLine.resumed } }

theorem State.endTeardown_disabled (disabled : s.hp.enable = false) : s.endTeardown = s.tornDown := by
  rw [State.endTeardown, disabled]
  rfl

theorem State.endTeardown_enabled (enabled : s.hp.enable = true) : s.endTeardown = s.tornDown.doEnable := by
  rw [State.endTeardown, enabled]
  rfl

end teardownEnd

/-- Settles O57: teardown engine by engine (`underTeardown`), which spares the slot of an engine that waits on. -/
theorem teardownEmptiesThePart : Obligations.TeardownEmptiesThePart := by
  refine ⟨fun s opened => ?begins, fun s => exec_teardown_off, fun s teardown =>
    ⟨exec_teardown_teardown teardown, fun idle noCu => ?ends, fun busy => ?waits⟩⟩
  case begins =>
    have run := exec_teardown opened
    obtain ⟨slots, engines, stale, engine, spared, held, effect⟩ :=
      State.beginTeardown_effect { s with hp := { s.hp with enable := false } }
    rw [effect] at run
    have engine (e : Fin 4) : engines[e] = (s.engine e).underTeardown := engine e
    refine ⟨_, run, rfl, rfl, rfl, rfl, rfl, fun r => ?_, fun c => ?_, rfl, fun q => ?_, fun e => ?_,
      fun e running waits => ?_, fun e stops => (engine e).trans ?_, held, ?_, rfl, rfl, rfl, rfl, rfl, rfl, rfl, rfl, rfl, rfl,
      fun l => ?_, fun l => ?_, fun l => ?_, rfl, rfl, rfl, rfl⟩
    · exact Vector.getElem_replicate ..
    · exact Vector.getElem_replicate ..
    · exact Vector.getElem_replicate ..
    · have stopped := Engine.underTeardown_cases (s.engine e)
      rw [← engine] at stopped
      exact stopped
    · have stays := engine e
      rw [Engine.underTeardown_of_running running, if_pos waits] at stays
      refine ⟨stays, fun store place => ?_⟩
      have same := spared e (by rw [stays]; exact running)
        (by rw [stays]; exact spares_of_waits store place running waits)
      rw [stays] at same
      exact same
    · rcases stops with bound | halted | ⟨running, noRead, noLine⟩
      · exact Engine.underTeardown_of_bound bound
      · exact Engine.underTeardown_of_halted halted
      · rw [Engine.underTeardown_of_running running, if_neg (not_or.2 ⟨noRead, noLine⟩)]
    · rfl
    · exact Vector.getElem_replicate ..
    · exact Vector.getElem_map ..
    · exact Vector.getElem_map ..
  case ends =>
    have run := exec_teardownEnd_done teardown (State.teardownDone_iff.2 ⟨idle, noCu⟩)
    by_cases enabled : s.hp.enable = true
    · rw [State.endTeardown_enabled enabled] at run
      by_cases valid : adminValid s.hp.adminSq = true ∧ adminValid s.hp.adminCq = true
      · rw [State.doEnable_of_valid (s := s.tornDown) valid.1 valid.2] at run
        refine ⟨_, run, rfl, fun disabled => ?_, fun _ _ _ => ⟨rfl, rfl, ?_, ?_⟩, fun _ bad => ?_, rfl, rfl, rfl, rfl,
          rfl, fun l => Vector.getElem_map ..⟩
        · rw [enabled] at disabled
          cases disabled
        · exact congrArg SqContext.state (State.sq_setSq_self s 0 _)
        · exact congrArg CqContext.state (State.cq_setCq_self s 0 _)
        · rw [valid.1, valid.2] at bad
          rcases bad with h | h <;> cases h
      · have bad : adminValid s.hp.adminSq = false ∨ adminValid s.hp.adminCq = false := by
          rw [← Bool.not_eq_true, ← Bool.not_eq_true]
          exact not_and_or.1 valid
        rw [State.doEnable_of_invalid (s := s.tornDown) bad] at run
        refine ⟨_, run, rfl, fun disabled => ?_, fun _ sq cq => absurd ⟨sq, cq⟩ valid, fun _ _ => ⟨rfl, rfl⟩, rfl, rfl,
          rfl, rfl, rfl, fun l => Vector.getElem_map ..⟩
        rw [enabled] at disabled
        cases disabled
    · have disabled := Bool.eq_false_iff.2 enabled
      rw [State.endTeardown_disabled disabled] at run
      exact ⟨_, run, rfl, fun _ => ⟨rfl, rfl, rfl, rfl, rfl⟩, fun h => absurd h enabled, fun h => absurd h enabled, rfl, rfl,
        rfl, rfl, rfl, fun l => Vector.getElem_map ..⟩
  case waits =>
    refine exec_teardownEnd_not_done fun done => ?_
    obtain ⟨idle, noCu⟩ := State.teardownDone_iff.1 done
    rcases busy with ⟨e, notIdle⟩ | ⟨w, f, mem⟩
    · exact notIdle (idle e).1
    · exact noCu w f mem

end Sys2Proof.Machine

/-! IDENTIFY (R207, R212). -/

namespace Sys2Proof.Machine

open Sys2Proof

section identify

variable {s : State} {c : Fin 8} {e : Entry}

theorem exec_identify_refused (h : AdminWaits s c .identify e)
    (bad : e.extractLsb' 64 64 = 0 ∨ (e.extractLsb' 64 64).toNat % 64 ≠ 0) : exec (.identify c) s = .next
      (s.completeRequest c 0 { status := .badField, time := s.tb.value, aux32 := 1, value := e.extractLsb' 64 64 }) := by
  show execIdentify c s = _
  rw [execIdentify, h.requestOf]
  dsimp only
  rw [if_pos (by exact bad)]
  rfl

theorem exec_identify (h : AdminWaits s c .identify e) (ok : ¬ (e.extractLsb' 64 64 = 0
    ∨ (e.extractLsb' 64 64).toNat % 64 ≠ 0)) : exec (.identify c) s = .next
      ((s.setProgress c (.identity s.tb.value)).queuePosted (.identity c (e.extractLsb' 64 64) (!s.hp.busMaster))) := by
  show execIdentify c s = _
  rw [execIdentify, h.requestOf]
  dsimp only
  rw [if_neg (by exact ok)]
  rfl

variable {n : Fin 64} {h sample : Nat} {a : Addr} {refused : Bool} {rest : List Posted}

/-- The identity record at the front of the posted writes, issued whole or refused by HP (R207). -/
theorem exec_identifyRecordIssued (ready : s.hp.condition = .ready) (ctx : s.ctx c = .effect 0 h e (.identity sample))
    (posted : s.hp.posted = .identity c a refused :: rest) : exec (.identifyRecordIssued c n) s = .next
      (if (refused || !s.hp.busMaster) = true then
        (({ s with hp := { s.hp with posted := rest } } : State).placePrefix c a (if refused then 0 else n.val)).completeRequest
          c 0 { status := .busError, time := sample, aux32 := 1, value := a }
      else
        (({ s with hp := { s.hp with posted := rest } } : State).place (.identity c a 64 identityRecord)).completeRequest
          c 0 { status := .ok, time := sample, aux32 := 1, value := a }) := by
  have waits : s.identityOf c = some (0, e, sample) := by
    rw [State.identityOf, State.isReady_iff.2 ready, ctx]
    rfl
  show execIdentifyRecordIssued c n s = _
  rw [execIdentifyRecordIssued, waits, posted]
  dsimp only
  rw [if_pos rfl]
  rfl

end identify

/-- Settles O60: the two refusals and the record that is issued whole. -/
theorem identifyWritesTheRecord : Obligations.IdentifyWritesTheRecord := by
  refine ⟨?request, ?issued, by decide, by decide, by decide, by decide, by decide, by decide, by decide, by decide,
    by decide, by decide, by decide, by decide, by decide, by decide, by decide, by decide, by decide, by decide, by decide⟩
  case request =>
    rintro s c e a waits rfl
    refine ⟨fun bad => ⟨_, exec_identify_refused waits bad, waits.answered s _ rfl rfl⟩, fun h ctx notZero aligned => ?_⟩
    rw [exec_identify waits (not_or.2 ⟨notZero, not_not.2 aligned⟩), State.setProgress, ctx]
    rfl
  case issued =>
    intro s c n h e sample a refused rest ready ctx posted active ring
    have run := exec_identifyRecordIssued (n := n) ready ctx posted
    obtain ⟨t, answers, -⟩ := commandsKeepTheQueue (.identifyRecordIssued c n) s
    have same := next_unique answers run
    have answered (u : State) (x : Result) (rqe : u.rqe = s.rqe) (cu : u.cu = s.cu) :
        Answered u (u.completeRequest c 0 x) c 0 x := by
      have hr : u.sq 0 = s.sq 0 := by rw [State.sq, rqe]; rfl
      refine State.answered_completeRequest u c 0 x (by rw [hr, active]; decide) ?_
      rw [hr, State.cq, cu]
      exact ring
    refine ⟨t, answers, fun taken master => ?_, fun taken noMaster notZero => ?_, fun first => ?_⟩
    · rw [if_neg (by rw [taken, master]; decide)] at same
      exact same ▸ answered _ _ rfl rfl
    · rw [if_pos (by rw [taken, noMaster]; decide), taken, State.placePrefix, if_neg] at same
      · exact same ▸ answered _ _ rfl rfl
      · exact fun zero => notZero (Fin.ext zero)
    · have nothing : (if refused = true then 0 else n.val) = 0 := by
        rcases first with taken | ⟨-, zero⟩
        · rw [if_pos taken]
        · rw [zero]
          exact ite_self 0
      rw [if_pos, nothing, State.placePrefix, if_pos rfl] at same
      · exact same ▸ answered _ _ rfl rfl
      · rcases first with taken | ⟨noMaster, -⟩
        · rw [taken]
          rfl
        · rw [noMaster]
          exact Bool.or_true _

end Sys2Proof.Machine

/-! RESET (R206). -/

namespace Sys2Proof.Machine

open Sys2Proof

theorem exec_reset (k : ResetKind) (s : State) : exec (.reset k) s
    = .next { State.reset with pending := s.pending, hp := { HostPort.reset with bus := s.hp.bus } } := rfl

theorem State.engine_reset (e : Fin 4) : State.reset.engine e = Engine.released := Vector.getElem_replicate ..

theorem State.input_reset (l : Fin 4) : State.reset.input l = InputLine.reset := Vector.getElem_replicate ..

theorem State.sq_reset (r : Fin 16) : State.reset.sq r = SqContext.absent := Vector.getElem_replicate ..

theorem State.cq_reset (q : Fin 16) : State.reset.cq q = CqContext.absent := Vector.getElem_replicate ..

/-- At reset no slot is occupied and no quota is above its limit. -/
theorem storeLaw_reset : StoreLaw State.reset := (storeLaw_iff _).2 store_reset

theorem placementLaw_reset : PlacementLaw State.reset := (placementLaw_iff storeLaw_reset.1).2 Board.placed_reset

theorem completionLaw_reset : CompletionLaw State.reset := (completionLaw_iff _).2 (sound_reset [] [])

/-- Settles O58: every law holds of the reset state by the lemma that its invariant starts from. -/
theorem resetLeavesTheResetTables : Obligations.ResetLeavesTheResetTables := by
  refine ⟨fun k s => ⟨_, exec_reset k s, rfl, rfl, rfl, rfl, rfl, rfl, rfl, rfl, rfl, rfl, rfl, rfl, rfl, fun n => ?quota, rfl,
    rfl, rfl, rfl, rfl, fun e => ?engine, rfl, fun l => ?listen, rfl, fun l => ?output, fun l => ?input, fun i => ?window,
    fun r => ?sq, fun c => ?ctx, rfl, fun q => ?cq⟩, by decide, by decide, by decide, by decide, by decide, storeLaw_reset,
    placementLaw_reset, completionLaw_reset⟩
  case quota => exact Vector.getElem_replicate ..
  case engine =>
    show (State.reset.engine e).state = .idle ∧ (State.reset.engine e).path.phase = .idle
    rw [State.engine_reset]
    exact ⟨rfl, rfl⟩
  case listen => exact Vector.getElem_replicate ..
  case output => exact Vector.getElem_replicate ..
  case input =>
    show (State.reset.input l).enabled = false ∧ (State.reset.input l).report = none
      ∧ (State.reset.input l).reportRing = none ∧ (State.reset.input l).spacing = 0
      ∧ (State.reset.input l).lastEdge = none ∧ (State.reset.input l).suppressed = 0
    rw [State.input_reset]
    exact ⟨rfl, rfl, rfl, rfl, rfl, rfl⟩
  case window => exact Vector.getElem_replicate ..
  case sq =>
    show (State.reset.sq r).state = .absent ∧ (State.reset.sq r).inFlight = false ∧ (State.reset.sq r).fetchHold = false
      ∧ (State.reset.sq r).credit = 0
    rw [State.sq_reset]
    exact ⟨rfl, rfl, rfl, rfl⟩
  case ctx => exact Vector.getElem_replicate ..
  case cq =>
    show (State.reset.cq q).state = .absent ∧ (State.reset.cq q).lost = 0 ∧ (State.reset.cq q).outbox = []
    rw [State.cq_reset]
    exact ⟨rfl, rfl, rfl⟩

end Sys2Proof.Machine

/-! The register window (R197 to R200). -/

namespace Sys2Proof.Machine

open Sys2Proof

/-! ## The halves of a word -/

theorem getLsbD_lowMask (i : Nat) : (0xFFFFFFFF : Word64).getLsbD i = decide (i < 32) := by
  have mask : (0xFFFFFFFF : Word64) = (BitVec.allOnes 32).setWidth 64 := rfl
  rw [mask, BitVec.getLsbD_setWidth, BitVec.getLsbD_allOnes]
  by_cases low : i < 32
  · simp [low, show i < 64 by omega]
  · simp [low]

theorem and_low_half (x : Word64) : x &&& 0xFFFFFFFF = (x.extractLsb' 0 32).setWidth 64 := by
  apply BitVec.eq_of_getLsbD_eq
  intro i hi
  rw [BitVec.getLsbD_and, getLsbD_lowMask, BitVec.getLsbD_setWidth, BitVec.getLsbD_extractLsb', Nat.zero_add,
    decide_eq_true hi, Bool.true_and, Bool.and_comm]

theorem shift_high_half (x : Word64) : x >>> 32 = (x.extractLsb' 32 32).setWidth 64 := by
  apply BitVec.eq_of_getLsbD_eq
  intro i hi
  rw [BitVec.getLsbD_ushiftRight, BitVec.getLsbD_setWidth, BitVec.getLsbD_extractLsb', decide_eq_true hi, Bool.true_and]
  by_cases low : i < 32
  · rw [decide_eq_true low, Bool.true_and]
  · rw [decide_eq_false low, Bool.false_and]
    exact BitVec.getLsbD_of_ge x _ (by omega)

theorem writeHalf_low (old data : Word64) :
    writeHalf old false data = old.extractLsb' 32 32 ++ data.extractLsb' 0 32 := by
  apply BitVec.eq_of_getLsbD_eq
  intro i hi
  show ((old &&& ~~~(0xFFFFFFFF : Word64)) ||| (data &&& 0xFFFFFFFF)).getLsbD i
    = (old.extractLsb' 32 32 ++ data.extractLsb' 0 32).getLsbD i
  rw [BitVec.getLsbD_or, BitVec.getLsbD_and, BitVec.getLsbD_and, BitVec.getLsbD_not, getLsbD_lowMask,
    BitVec.getLsbD_append, BitVec.getLsbD_extractLsb', BitVec.getLsbD_extractLsb']
  by_cases low : i < 32
  · simp [low]
  · simp [low, hi, show i - 32 < 32 by omega, show 32 + (i - 32) = i by omega]

theorem writeHalf_high (old data : Word64) :
    writeHalf old true data = data.extractLsb' 0 32 ++ old.extractLsb' 0 32 := by
  apply BitVec.eq_of_getLsbD_eq
  intro i hi
  show ((old &&& (0xFFFFFFFF : Word64)) ||| (data <<< 32)).getLsbD i
    = (data.extractLsb' 0 32 ++ old.extractLsb' 0 32).getLsbD i
  rw [BitVec.getLsbD_or, BitVec.getLsbD_and, getLsbD_lowMask, BitVec.getLsbD_shiftLeft, BitVec.getLsbD_append,
    BitVec.getLsbD_extractLsb', BitVec.getLsbD_extractLsb']
  by_cases low : i < 32
  · simp [low]
  · simp [low, hi, show i - 32 < 32 by omega]

/-! ## Reads (R197, R198, R200) -/

theorem getLsbD_append_bit {w : Nat} (x : BitVec w) (b : Bool) (n : Nat) :
    (x ++ bit b).getLsbD n = if n = 0 then b else x.getLsbD (n - 1) := by
  rw [BitVec.getLsbD_append]
  by_cases zero : n = 0
  · subst zero
    cases b <;> rfl
  · rw [if_neg (by omega), if_neg zero]

section reads

variable (s : State)

/-- STATUS bit by bit (R200). -/
theorem getLsbD_statusWord (n : Nat) : (statusWord s).getLsbD n =
    if n = 0 then s.hp.condition == .ready else if n - 1 = 0 then s.hp.condition == .teardown
    else if n - 1 - 1 = 0 then s.hp.fatalBit else if n - 1 - 1 - 1 = 0 then s.hp.configError
    else if n - 1 - 1 - 1 - 1 = 0 then s.tb.state == .running else if n - 1 - 1 - 1 - 1 - 1 = 0 then s.dsp.hold
    else false := by
  unfold statusWord
  rw [getLsbD_append_bit, getLsbD_append_bit, getLsbD_append_bit, getLsbD_append_bit, getLsbD_append_bit,
    getLsbD_append_bit, BitVec.ofNat_eq_ofNat, BitVec.getLsbD_zero]

theorem State.registerWord_of_ge {n : Nat} (h : 8 ≤ n) : s.registerWord n = 0 := by
  unfold State.registerWord
  split
  case h_7 => rfl
  all_goals omega

theorem State.registerRead_dword_low {o : BitVec 12} (aligned : o.toNat % 8 = 0) :
    s.registerRead o .dword = ((s.registerRead o .qword).extractLsb' 0 32).setWidth 64 := by
  show (if o.toNat = 0x3C then _ else _) = BitVec.setWidth 64 (BitVec.extractLsb' 0 32 (if o.toNat % 8 = 0 then _ else _))
  rw [if_neg (by omega), if_pos aligned, if_pos aligned, and_low_half]

theorem State.registerRead_dword_high {o : BitVec 12} (aligned : o.toNat % 8 = 0) (notTime : o ≠ 0x38) :
    s.registerRead (o + 4) .dword = ((s.registerRead o .qword).extractLsb' 32 32).setWidth 64 := by
  have offset : (o + 4).toNat = o.toNat + 4 := by
    have bound := o.isLt
    rw [BitVec.toNat_add]
    show (o.toNat + 4) % 4096 = _
    omega
  have other : o.toNat ≠ 0x38 := fun same => notTime (BitVec.eq_of_toNat_eq same)
  have word : (o.toNat + 4) / 8 = o.toNat / 8 := by omega
  show (if (o + 4).toNat = 0x3C then _ else _)
    = BitVec.setWidth 64 (BitVec.extractLsb' 32 32 (if o.toNat % 8 = 0 then _ else _))
  rw [offset, if_neg (by omega), if_neg (by omega), if_pos (by omega), if_pos aligned, word, shift_high_half]

theorem State.registerRead_high (o : BitVec 12) (a : Access) (high : 64 ≤ o.toNat) : s.registerRead o a = 0 := by
  have word := s.registerWord_of_ge (n := o.toNat / 8) (by omega)
  cases a with
  | qword =>
    show (if o.toNat % 8 = 0 then s.registerWord (o.toNat / 8) else 0) = 0
    rw [word]
    exact ite_self 0
  | dword =>
    show (if o.toNat = 0x3C then _ else if o.toNat % 8 = 0 then s.registerWord (o.toNat / 8) &&& 0xFFFFFFFF
      else if o.toNat % 8 = 4 then s.registerWord (o.toNat / 8) >>> 32 else (0 : Word64)) = 0
    rw [if_neg (by omega), word, and_low_half, shift_high_half]
    split
    · rfl
    · exact ite_self 0
  | other => rfl

end reads

/-! ## Writes (R197, R198) -/

section writes

variable (s : State) (d : Word64)

theorem State.writeRegister_of_ge {n : Nat} (h : 8 ≤ n) : s.writeRegister n d = s := by
  unfold State.writeRegister
  split
  case h_6 => rfl
  all_goals omega

theorem State.writeRegisterHalf_of_ge {n : Nat} (h : 8 ≤ n) (high : Bool) : s.writeRegisterHalf n high d = s := by
  unfold State.writeRegisterHalf
  split
  case h_3 =>
    rw [State.writeRegister_of_ge s _ h]
    exact ite_self s
  all_goals omega

theorem State.writeWindow_high (o : BitVec 12) (a : Access) (high : 64 ≤ o.toNat) : s.writeWindow o a d = s := by
  cases a with
  | qword =>
    show (if o.toNat % 8 = 0 then s.writeRegister (o.toNat / 8) d else s) = s
    rw [State.writeRegister_of_ge s d (by omega)]
    exact ite_self s
  | dword =>
    show (if o.toNat % 4 = 0 then s.writeRegisterHalf (o.toNat / 8) (o.toNat % 8 == 4) d else s) = s
    rw [State.writeRegisterHalf_of_ge s d (by omega)]
    exact ite_self s
  | other => rfl

/-- A write of CONTROL is ENABLE or TEARDOWN by its bit 0 (R201). -/
theorem exec_writeControl : Host.Outcome.next (s.writeEnable (d.getLsbD 0))
    = if d.getLsbD 0 then exec .enable s else exec .teardown s := by
  cases d.getLsbD 0 <;> rfl

theorem getLsbD_zero_low_half : (d &&& 0xFFFFFFFF).getLsbD 0 = d.getLsbD 0 := by
  rw [BitVec.getLsbD_and, getLsbD_lowMask]
  exact Bool.and_true _

end writes

/-- Settles O59: the halves of a word, register by register. -/
theorem registerWindowWrites : Obligations.RegisterWindowWrites := by
  refine ⟨fun s => ⟨?ident, rfl, ?status, rfl, rfl, rfl, rfl, fun o => s.registerRead_dword_low,
    fun o => s.registerRead_dword_high, fun o misaligned => if_neg misaligned, fun o misaligned => ?misaligned,
    s.registerRead_high, fun o => rfl⟩, fun s on => rfl, fun s d => ⟨rfl, rfl, ?sqLow, ?sqHigh, ?cqLow, ?cqHigh, ?whole,
    ?halves, fun o misaligned => congrArg _ (if_neg misaligned), fun o misaligned => congrArg _ (if_neg misaligned),
    fun o a high => congrArg _ (s.writeWindow_high d o a high), fun o => rfl, ?control, rfl, ?post, rfl, ?release⟩⟩
  case ident => rfl
  case status =>
    intro n _
    show (statusWord s).getLsbD n = _
    rw [getLsbD_statusWord]
    match n with
    | 0 => rfl
    | 1 => rfl
    | 2 => rfl
    | 3 => rfl
    | 4 => rfl
    | 5 => rfl
    | n + 6 => rfl
  case misaligned =>
    show (if o.toNat = 0x3C then _ else _) = _
    rw [if_neg (by omega), if_neg (by omega), if_neg (by omega)]
  case sqLow =>
    rw [← writeHalf_low]
    rfl
  case sqHigh =>
    rw [← writeHalf_high]
    rfl
  case cqLow =>
    rw [← writeHalf_low]
    rfl
  case cqHigh =>
    rw [← writeHalf_high]
    rfl
  case whole =>
    rintro o (rfl | rfl | rfl)
    · rfl
    · rfl
    · rfl
  case halves =>
    rintro o (rfl | rfl | rfl | rfl | rfl | rfl | rfl | rfl | rfl) <;> rfl
  case control =>
    rintro a (rfl | rfl)
    · exact exec_writeControl s d
    · rw [← getLsbD_zero_low_half]
      exact exec_writeControl s (d &&& 0xFFFFFFFF)
  case post =>
    rw [← and_low_half]
    rfl
  case release =>
    rw [← and_low_half]
    rfl

end Sys2Proof.Machine
